-- ==== Sys2Proof/Word.lean ====
section
/-! DEFINITION. The 32-bit word of RCC-CTL: a register (`REG_WIDTH` = 32, 00_scope.md R8) or a
command word (30_encoding.md R80). Bit 0 is the least significant bit (R11). -/

namespace Sys2Proof

/-- A 32-bit register value, command word or register address (R11, R60). -/
abbrev Word := BitVec 32

end Sys2Proof
end

