-- ==== Sys2Proof/Syntax.lean ====
section
/-! DEFINITION. The commands of RCC-CTL and the names their operands use: one constructor of
`Instr` for each row of spec/opcode_table.json. -/

namespace Sys2Proof

/-- The four peripheral bus domains 0 to 3 (30_encoding.md R89; 10_state.md R32). -/
inductive Bus where
  | bus0 | bus1 | bus2 | bus3
  deriving DecidableEq, Repr

/-- The five clock sources, in the order of their ids 0 to 4 (30_encoding.md R86). -/
inductive ClockSource where
  | hsi | hse | pll | plli2s | pllsai
  deriving DecidableEq, Repr

/-- The seven commands (30_encoding.md R81), with the operands of their formats. An operand is the
unsigned value of its field (R82; 00_scope.md R13) and may be out of its legal range: the family
rule then rejects it (R93). -/
inductive Instr where
  /-- CLK_ENABLE src, format F_SRC (R83). -/
  | clkEnable (src : Nat)
  /-- CLK_DISABLE src, format F_SRC (R83). -/
  | clkDisable (src : Nat)
  /-- SYSCLK_SELECT val, format F_VAL (R84). -/
  | sysclkSelect (val : Nat)
  /-- HSE_BYPASS val, format F_VAL (R84). -/
  | hseBypass (val : Nat)
  /-- PLL_CONFIG src, M, N, P, format F_PLL (R85). -/
  | pllConfig (src m n p : Nat)
  /-- PERIPH_ENABLE bus, pos, format F_GATE (R87). -/
  | periphEnable (bus : Bus) (pos : Nat)
  /-- PERIPH_DISABLE bus, pos, format F_GATE (R87). -/
  | periphDisable (bus : Bus) (pos : Nat)
  deriving DecidableEq, Repr

end Sys2Proof
end

