-- ==== Sys2Proof/WellFormed.lean ====
section
/-! DEFINITION. Which terms of `Instr` a command word can carry: every operand fits the width of
its field (30_encoding.md R83, R84, R85, R87, R93). -/

namespace Sys2Proof

/-- `v` fits an unsigned field of `width` bits. -/
def fitsField (width v : Nat) : Bool := v < 2 ^ width

/-- Every operand of the command fits its field. The widths are those of R93: src 3 bits, val 8,
M 8, N 10, P 4, pos 6; the bus field has no illegal value (R89). -/
def Instr.wellFormed : Instr → Bool
  | .clkEnable src => fitsField 3 src
  | .clkDisable src => fitsField 3 src
  | .sysclkSelect val => fitsField 8 val
  | .hseBypass val => fitsField 8 val
  | .pllConfig src m n p => fitsField 3 src && fitsField 8 m && fitsField 10 n && fitsField 4 p
  | .periphEnable _ pos => fitsField 6 pos
  | .periphDisable _ pos => fitsField 6 pos

end Sys2Proof
end

