-- ==== Sys2Proof/Decode.lean ====
section
/-! DEFINITION. From a command word to a command and back (30_encoding.md R80 to R97). The decoder
is total: every word is a command or is refused by name (R97). -/

namespace Sys2Proof

/-- The seven opcodes in use (R81). -/
inductive Opcode where
  | clkEnable | clkDisable | sysclkSelect | hseBypass | pllConfig | periphEnable | periphDisable
  deriving DecidableEq, Repr

/-- Why a word encodes no command. Both ends are ILLEGAL_COMMAND (40_command_cycle.md R102). -/
inductive DecodeError where
  /-- The opcode is 0x0 or 0x8 to 0xF (R91). -/
  | reservedOpcode
  /-- A reserved bit of the format is 1 (R92). -/
  | reservedBits
  deriving DecidableEq, Repr

/-- A row of the opcode map of R90: `w` selects `op` exactly when `w AND mask` is `pattern`. -/
structure OpcodeRow where
  op : Opcode
  pattern : Word
  mask : Word
  deriving DecidableEq, Repr

/-- `match` and `mask` of R90 for one opcode. -/
def rowOf : Opcode → OpcodeRow
  | .clkEnable => ⟨.clkEnable, 0x00000001#32, 0xFFFFFF8F#32⟩
  | .clkDisable => ⟨.clkDisable, 0x00000002#32, 0xFFFFFF8F#32⟩
  | .sysclkSelect => ⟨.sysclkSelect, 0x00000003#32, 0xFFFFF00F#32⟩
  | .hseBypass => ⟨.hseBypass, 0x00000004#32, 0xFFFFF00F#32⟩
  | .pllConfig => ⟨.pllConfig, 0x00000005#32, 0xE000000F#32⟩
  | .periphEnable => ⟨.periphEnable, 0x00000006#32, 0xFFFFF00F#32⟩
  | .periphDisable => ⟨.periphDisable, 0x00000007#32, 0xFFFFF00F#32⟩

/-- The opcode map of R90, whole. -/
def opcodeTable : List OpcodeRow :=
  [rowOf .clkEnable, rowOf .clkDisable, rowOf .sysclkSelect, rowOf .hseBypass, rowOf .pllConfig,
    rowOf .periphEnable, rowOf .periphDisable]

/-- The word selects the row (R90). -/
def OpcodeRow.selects (r : OpcodeRow) (w : Word) : Bool := w &&& r.mask == r.pattern

/-- The opcode a value of bits [3:0] names, if any (R81, R91). -/
def opcodeOfNat : Nat → Option Opcode
  | 1 => some .clkEnable
  | 2 => some .clkDisable
  | 3 => some .sysclkSelect
  | 4 => some .hseBypass
  | 5 => some .pllConfig
  | 6 => some .periphEnable
  | 7 => some .periphDisable
  | _ => none

/-- `cmd[lo+width-1:lo]`, zero-extended (R82). -/
def fieldOf (w : Word) (lo width : Nat) : Nat := (w.extractLsb' lo width).toNat

/-- The bus a 2-bit code names (R89). -/
def busOfNat : Nat → Bus
  | 0 => .bus0
  | 1 => .bus1
  | 2 => .bus2
  | _ => .bus3

/-- The code of a bus (R89). -/
def busCode : Bus → Nat
  | .bus0 => 0
  | .bus1 => 1
  | .bus2 => 2
  | .bus3 => 3

/-- The command with the operands of its format, read from the word (R83, R84, R85, R87). -/
def operandsOf (w : Word) : Opcode → Instr
  | .clkEnable => .clkEnable (fieldOf w 4 3)
  | .clkDisable => .clkDisable (fieldOf w 4 3)
  | .sysclkSelect => .sysclkSelect (fieldOf w 4 8)
  | .hseBypass => .hseBypass (fieldOf w 4 8)
  | .pllConfig => .pllConfig (fieldOf w 4 3) (fieldOf w 7 8) (fieldOf w 15 10) (fieldOf w 25 4)
  | .periphEnable => .periphEnable (busOfNat (fieldOf w 4 2)) (fieldOf w 6 6)
  | .periphDisable => .periphDisable (busOfNat (fieldOf w 4 2)) (fieldOf w 6 6)

/-- The decoder, with the checks in the order of 40_command_cycle.md R102: first the opcode, then
the reserved bits. -/
def decode (w : Word) : Except DecodeError Instr :=
  match opcodeOfNat (fieldOf w 0 4) with
  | none => .error .reservedOpcode
  | some op =>
    if (rowOf op).selects w then .ok (operandsOf w op) else .error .reservedBits

/-- The word whose bits [lo+width-1:lo] hold `v` and whose other bits are 0. -/
def placeField (lo width v : Nat) : Word := ((BitVec.ofNat width v).setWidth 32) <<< lo

/-- The word of format F_SRC: src at [6:4], op at [3:0], 0 at [31:7] (R83). -/
def encodeSrc (op src : Nat) : Word := placeField 4 3 src ||| placeField 0 4 op

/-- The word of format F_VAL: val at [11:4], op at [3:0], 0 at [31:12] (R84). -/
def encodeVal (op val : Nat) : Word := placeField 4 8 val ||| placeField 0 4 op

/-- The word of format F_PLL: P at [28:25], N at [24:15], M at [14:7], src at [6:4], op at [3:0], 0
at [31:29] (R85). -/
def encodePll (op src m n p : Nat) : Word :=
  placeField 25 4 p ||| placeField 15 10 n ||| placeField 7 8 m ||| placeField 4 3 src |||
    placeField 0 4 op

/-- The word of format F_GATE: pos at [11:6], bus at [5:4], op at [3:0], 0 at [31:12] (R87). -/
def encodeGate (op : Nat) (bus : Bus) (pos : Nat) : Word :=
  placeField 6 6 pos ||| placeField 4 2 (busCode bus) ||| placeField 0 4 op

/-- The word of a well-formed command (R81 to R87). -/
def encode : Instr → Word
  | .clkEnable src => encodeSrc 1 src
  | .clkDisable src => encodeSrc 2 src
  | .sysclkSelect val => encodeVal 3 val
  | .hseBypass val => encodeVal 4 val
  | .pllConfig src m n p => encodePll 5 src m n p
  | .periphEnable bus pos => encodeGate 6 bus pos
  | .periphDisable bus pos => encodeGate 7 bus pos

/-- The opcode of a command (R81). -/
def opcodeOf : Instr → Opcode
  | .clkEnable _ => .clkEnable
  | .clkDisable _ => .clkDisable
  | .sysclkSelect _ => .sysclkSelect
  | .hseBypass _ => .hseBypass
  | .pllConfig _ _ _ _ => .pllConfig
  | .periphEnable _ _ => .periphEnable
  | .periphDisable _ _ => .periphDisable

/-- The command word whose low `nbits` bits are those of `w` and whose other bits are 0. A command
is one whole word that the host hands over (R80, 20_memory.md R74): no bytes are fetched. -/
def tableWord (nbits w : Nat) : Word := BitVec.ofNat 32 (w % 2 ^ nbits)

/-- What the decoder reads from the table's bits of a row. -/
def decodeTableWord (nbits w : Nat) : Option Instr := (decode (tableWord nbits w)).toOption

end Sys2Proof
end

