-- ==== Sys2Proof/Config.lean ====
section
/-! DEFINITION. The implementation parameters of RCC-CTL (00_scope.md R8) and its one free value,
the HSI calibration byte (93_implementation_defined.md U6). -/

namespace Sys2Proof

/-- One value for each of the four buses: the four ENR registers and their parameters
(`NUM_BUSES` = 4, R8). -/
structure PerBus (α : Type) where
  bus0 : α
  bus1 : α
  bus2 : α
  bus3 : α
  deriving DecidableEq, Repr

/-- `P_SOURCE` (R9): where PLL_CONFIG takes the output divider from. -/
inductive PSource where
  /-- `FROM_M`, the default: the divider is the operand M. -/
  | fromM
  /-- `FROM_P`: the divider is the operand P. -/
  | fromP
  deriving DecidableEq, Repr

/-- The parameters a model of RCC-CTL takes (R8). They are fixed for a machine: State carries them
in one field that no step writes. -/
structure Params where
  /-- `P_SOURCE` (R9). -/
  pSource : PSource
  /-- `WAIT_BOUND` (R10): `none` is NONE, `some k` gives up after k failed polls. -/
  waitBound : Option Nat
  /-- `PLLI2S_ON_BIT`: the CR bit that enables PLLI2S; the ready bit is the next one (R26). -/
  plli2sOnBit : Nat
  /-- `PLLSAI_ON_BIT`: the CR bit that enables PLLSAI; the ready bit is the next one (R26). -/
  pllsaiOnBit : Nat
  /-- `RCC_BASE`. -/
  rccBase : Word
  /-- `ENR_OFFSET[b]`. -/
  enrOffset : PerBus Nat
  /-- `CR_RESET_OTHER`; bits [15:8] are drawn at each reset instead (R35, U6). -/
  crResetOther : Word
  /-- `PLLCFGR_RESET_OTHER`. -/
  pllcfgrResetOther : Word
  /-- `CFGR_RESET_OTHER`. -/
  cfgrResetOther : Word
  /-- `ENR_RESET[b]`. -/
  enrReset : PerBus Word
  deriving DecidableEq, Repr

/-- The defaults and suggestions of R8. The values that R8 marks OPEN are general knowledge of the
STM32F446 there (PRESUMED, log entry 3). -/
def Params.suggested : Params where
  pSource := .fromM
  waitBound := none
  plli2sOnBit := 26
  pllsaiOnBit := 28
  rccBase := 0x40023800#32
  enrOffset := { bus0 := 0x30, bus1 := 0x34, bus2 := 0x38, bus3 := 0x40 }
  crResetOther := 0x00000080#32
  pllcfgrResetOther := 0x24000000#32
  cfgrResetOther := 0#32
  enrReset := { bus0 := 0x00100000#32, bus1 := 0#32, bus2 := 0#32, bus3 := 0#32 }

/-- The CR bits whose place the spec fixes: HSION, HSIRDY, HSEON, HSERDY, HSEBYP, PLLON and PLLRDY
(10_state.md R25). -/
def fixedCrBits : List Nat := [0, 1, 16, 17, 18, 24, 25]

/-- R8's condition on an OPEN enable bit b: b is in 0..30, and b and b+1 are none of the fixed CR
bits (90_conflicts.md C7). -/
structure LegalOnBit (b : Nat) : Prop where
  inRange : b ≤ 30
  onFree : b ∉ fixedCrBits
  rdyFree : b + 1 ∉ fixedCrBits

/-- R8's condition on one ENR offset: a multiple of 4 that is not the offset of CR, PLLCFGR or
CFGR. -/
structure LegalOffset (o : Nat) : Prop where
  aligned : o % 4 = 0
  notFixed : o ∉ [0x00, 0x04, 0x08]

/-- The parameter values R8 admits. -/
structure Params.Legal (p : Params) : Prop where
  /-- `WAIT_BOUND = k` needs k ≥ 1. -/
  waitBound : p.waitBound ≠ some 0
  plli2s : LegalOnBit p.plli2sOnBit
  pllsai : LegalOnBit p.pllsaiOnBit
  /-- The bit pairs of PLLI2S and PLLSAI are disjoint. -/
  disjoint : p.plli2sOnBit ≠ p.pllsaiOnBit ∧ p.plli2sOnBit + 1 ≠ p.pllsaiOnBit ∧
    p.pllsaiOnBit + 1 ≠ p.plli2sOnBit
  /-- `RCC_BASE` is a multiple of 4. -/
  base : p.rccBase.toNat % 4 = 0
  offset0 : LegalOffset p.enrOffset.bus0
  offset1 : LegalOffset p.enrOffset.bus1
  offset2 : LegalOffset p.enrOffset.bus2
  offset3 : LegalOffset p.enrOffset.bus3
  /-- The four ENR offsets are distinct. -/
  distinct : [p.enrOffset.bus0, p.enrOffset.bus1, p.enrOffset.bus2, p.enrOffset.bus3].Nodup

/-- The HSI calibration byte CR[15:8] that the `n`-th reset draws: a free value, of which nothing is
known (10_state.md R35; U6 "a draw of 8 bits at reset, fixed afterwards"; log entry 4). -/
opaque Config.hsiCal : Nat → BitVec 8

end Sys2Proof
end

