-- ==== Sys2Proof/Machine/Fields.lean ====
section
/-! DEFINITION. Bit fields of a 32-bit register, where the fields of CR, CFGR and PLLCFGR stand,
and the four-register bank (10_state.md R25 to R32). -/

namespace Sys2Proof.Machine

/-- The word with 1 at bits `lo+n-1..lo` and 0 elsewhere. -/
def fieldMask (lo n : Nat) : Word := ((BitVec.allOnes n).setWidth 32) <<< lo

/-- `REG[lo+n-1:lo] <- v` on the register's value: those bits become `v`, every other bit stays
(10_state.md R31). -/
def setField {n : Nat} (w : Word) (lo : Nat) (v : BitVec n) : Word :=
  (w &&& ~~~(fieldMask lo n)) ||| ((v.setWidth 32) <<< lo)

/-- `REG[lo+n-1:lo]` (00_scope.md R11). -/
def getField (w : Word) (lo n : Nat) : BitVec n := w.extractLsb' lo n

/-- `ON_BIT(s)` (10_state.md R26). -/
def onBit (p : Params) : ClockSource → Nat
  | .hsi => 0
  | .hse => 16
  | .pll => 24
  | .plli2s => p.plli2sOnBit
  | .pllsai => p.pllsaiOnBit

/-- `RDY_BIT(s) = ON_BIT(s) + 1` (10_state.md R26). -/
def rdyBit (p : Params) (s : ClockSource) : Nat := onBit p s + 1

/-- HSEBYP is CR[18] (10_state.md R25). -/
def hseBypBit : Nat := 18

/-- SW is CFGR[1:0] (10_state.md R27). -/
def swLo : Nat := 0

/-- SWS is CFGR[3:2] (10_state.md R27). -/
def swsLo : Nat := 2

/-- PLLM is PLLCFGR[5:0] (10_state.md R28). -/
def pllMLo : Nat := 0

/-- PLLN is PLLCFGR[14:6] (10_state.md R28). -/
def pllNLo : Nat := 6

/-- PLLP is PLLCFGR[17:16] (10_state.md R28). -/
def pllPLo : Nat := 16

/-- PLLSRC is PLLCFGR[22] (10_state.md R28). -/
def pllSrcBit : Nat := 22

/-- The five clock sources in the order of their ids (30_encoding.md R86). -/
def allSources : List ClockSource := [.hsi, .hse, .pll, .plli2s, .pllsai]

/-- The positions of CR's owned fields (10_state.md R25, R30). -/
def crOwnedBits (p : Params) : List Nat :=
  hseBypBit :: (allSources.map (onBit p) ++ allSources.map (rdyBit p))

/-- The positions of CFGR's owned fields: SW and SWS (10_state.md R27, R30). -/
def cfgrOwnedBits : List Nat := [0, 1, 2, 3]

/-- The positions of PLLCFGR's owned fields: PLLM, PLLN, PLLP and PLLSRC (10_state.md R28, R30). -/
def pllcfgrOwnedBits : List Nat := List.range 15 ++ [16, 17, 22]

/-- The word whose 1 bits are at the listed positions. -/
def maskOf (positions : List Nat) : Word :=
  positions.foldr (fun i w => setField w i 1#1) 0#32

/-- The register of one bus (10_state.md R32). -/
def busGet {α : Type} (r : PerBus α) : Bus → α
  | .bus0 => r.bus0
  | .bus1 => r.bus1
  | .bus2 => r.bus2
  | .bus3 => r.bus3

/-- The bank with one bus's register replaced. -/
def busSet {α : Type} (r : PerBus α) (b : Bus) (v : α) : PerBus α :=
  match b with
  | .bus0 => { r with bus0 := v }
  | .bus1 => { r with bus1 := v }
  | .bus2 => { r with bus2 := v }
  | .bus3 => { r with bus3 := v }

end Sys2Proof.Machine
end

