-- ==== Sys2Proof/Machine/ResetValues.lean ====
section
/-! DEFINITION. The register values that reset gives, as functions of the parameters and of the
HSICAL draw (10_state.md R35 to R37; 70_reset_and_hazards.md R211). The owned values are the
spec's decision D22 (log entry 5). -/

namespace Sys2Proof.Machine

/-- A register whose owned bits are those of `own` and whose other bits are those of `other`. -/
def mixOwned (ownedBits : List Nat) (own other : Word) : Word :=
  (own &&& maskOf ownedBits) ||| (other &&& ~~~(maskOf ownedBits))

/-- CR at reset: HSION = HSIRDY = 1, every other owned field 0, the unowned bits `CR_RESET_OTHER`
with the drawn HSICAL byte at [15:8] (R35). -/
def resetCr (p : Params) (hsiCal : BitVec 8) : Word :=
  mixOwned (crOwnedBits p) 0x00000003#32 (setField p.crResetOther 8 hsiCal)

/-- PLLCFGR at reset: PLLM = 16, PLLN = 192, PLLP = 0, PLLSRC = 0 (R36). -/
def resetPllcfgr (p : Params) : Word :=
  mixOwned pllcfgrOwnedBits 0x00003010#32 p.pllcfgrResetOther

/-- CFGR at reset: SW = SWS = 0 (R37). -/
def resetCfgr (p : Params) : Word := mixOwned cfgrOwnedBits 0#32 p.cfgrResetOther

end Sys2Proof.Machine
end

