-- ==== Sys2Proof/Machine/State.lean ====
section
/-! DEFINITION. The state of RCC-CTL, the reasons a step can stop, and the state after reset
(10_state.md; 60_exceptions.md R180, R188; 70_reset_and_hazards.md R210, R211). -/

namespace Sys2Proof.Machine

/-- The phases of the controller FSM (10_state.md R41). -/
inductive Phase where
  | idle | decode
  | clkSet | clkWait
  | sysSet | sysWait
  | bypSet
  | pllOff | pllOffWait | pllSrc | pllChkN | pllChkM | pllMn | pllP | pllOn | pllOnWait
  | gateSet
  deriving DecidableEq, Repr

/-- The status a command ends with (60_exceptions.md R180). -/
inductive Status where
  | ok | invalidParameter | hardwareTimeout | illegalCommand
  deriving DecidableEq, Repr

/-- One move of one agent (10_state.md R20). -/
inductive Move where
  /-- The controller takes its step (40_command_cycle.md R104). -/
  | controller
  /-- The clock environment copies a source's enable bit into its ready bit (60_exceptions.md
  R190). -/
  | envReady (c : ClockSource)
  /-- The clock environment copies SW into SWS (60_exceptions.md R191). -/
  | envSwitch
  /-- The host issues a command word (40_command_cycle.md R100). -/
  | issue (w : Word)
  /-- The host reads `size` bytes at a register address (20_memory.md R63, R64). -/
  | readRegister (addr : Word) (size : Nat)
  /-- The host reads `busy` and `last_status` (10_state.md R43; 60_exceptions.md R198). -/
  | readStatus
  /-- The platform asserts reset (70_reset_and_hazards.md R210). -/
  | reset
  deriving DecidableEq, Repr

/-- What a host read returns (10_state.md R45). -/
inductive Response where
  /-- The 32-bit value of a register. -/
  | data (w : Word)
  /-- `busy` and `last_status`. -/
  | status (busy : Bool) (last : Option Status)
  deriving DecidableEq, Repr

/-- The model faults (60_exceptions.md R188). All are safe: they make claims unprovable, never
false. -/
inductive Fault where
  /-- UNMAPPED_READ: a host read at an address or of a size that 20_memory.md R63 and R64 do not
  admit. The host's read move raises it; it is recorded in `State.faults` and the run goes on
  (R188, R210; log entry 6). Safe. -/
  | unmappedRead (addr : Word) (size : Nat)
  /-- A read of `cmd` while it holds no value (10_state.md R39). A meaning run in phase IDLE, and
  the controller in a busy phase with an empty latch, raise it; no reachable state does (log entry
  7). Safe. -/
  | cmdNoValue
  /-- The phase belongs to another command than the latched one. A meaning run in such a phase
  raises it; no reachable state does (log entry 7). Safe. -/
  | phaseMismatch
  deriving DecidableEq, Repr

/-- Why a step can be refused. -/
inductive Refusal where
  /-- An instruction with no meaning yet, by its mnemonic. Only `exec`'s arms may answer it, and no
  arm of this model does. Safe. -/
  | notModelled (mnemonic : String)
  deriving DecidableEq, Repr

/-- Everything the spec gives the machine, and four fields of the model's own: `cfg`, `schedule`,
`response` and `resets`. -/
structure State where
  /-- The control register (10_state.md R25). -/
  cr : Word
  /-- The clock configuration register (R27). -/
  cfgr : Word
  /-- The PLL configuration register (R28). -/
  pllcfgr : Word
  /-- The four peripheral-bus clock-enable registers ENR[0..3] (R32). -/
  enr : PerBus Word
  /-- The controller's phase (R41). -/
  phase : Phase
  /-- The command latch; no value while idle (R39, R42). -/
  cmd : Option Word
  /-- A command is running (R43). -/
  busy : Bool
  /-- The status of the last ended command; `none` is NONE (R43). -/
  lastStatus : Option Status
  /-- The failed polls of the running wait (R44). -/
  waitCount : Nat
  /-- The model faults recorded so far, newest first; reset keeps them (60_exceptions.md R188;
  70_reset_and_hazards.md R210). -/
  faults : List Fault
  /-- The implementation parameters (00_scope.md R8); no step writes them. -/
  cfg : Params
  /-- Which agent moves next, first move first; when the list is empty the controller moves. The
  order is free (U8), so a claim holds for every list (log entry 1). -/
  schedule : List Move
  /-- What the host's last read returned (R45; log entry 9). -/
  response : Option Response
  /-- How many resets have been asserted: the index of the HSICAL draw (U6; log entry 4). -/
  resets : Nat
  deriving DecidableEq, Repr

/-- The machine right after reset, with the parameters of R8's defaults and suggestions (log entries
3 and 5). No move is scheduled: a program is the words that the host issues (log entry 12). -/
def State.reset : State where
  cr := resetCr Params.suggested (Config.hsiCal 0)
  cfgr := resetCfgr Params.suggested
  pllcfgr := resetPllcfgr Params.suggested
  enr := Params.suggested.enrReset
  phase := .idle
  cmd := none
  busy := false
  lastStatus := none
  waitCount := 0
  faults := []
  cfg := Params.suggested
  schedule := []
  response := none
  resets := 0

end Sys2Proof.Machine
end

