-- ==== Sys2Proof/Machine/Flags.lean ====
section
/-! DEFINITION. The two flags `busy` and `last_status` (10_state.md R23, R43), the status codes, and
the end of a command, which is the only step that sets them besides issue and reset. -/

namespace Sys2Proof.Machine

/-- The number of a status (60_exceptions.md R180). -/
def statusCode : Status → Nat
  | .ok => 0
  | .invalidParameter => 1
  | .hardwareTimeout => 2
  | .illegalCommand => 3

/-- `finish(x)`: the command ends with status `x` (40_command_cycle.md R107). -/
def State.finish (s : State) (x : Status) : State :=
  { s with lastStatus := some x, waitCount := 0, phase := .idle, busy := false, cmd := none }

end Sys2Proof.Machine
end

