-- ==== Sys2Proof/Machine/Operands.lean ====
section
/-! DEFINITION. The meaning of operand values: which are legal, and what each names (30_encoding.md
R86, R88; 44_pll_config.md R150 to R158). -/

namespace Sys2Proof.Machine

/-- The clock source an id names; ids above 4 name none (30_encoding.md R86; 41_clock_source.md
R122). -/
def sourceOfId : Nat → Option ClockSource
  | 0 => some .hsi
  | 1 => some .hse
  | 2 => some .pll
  | 3 => some .plli2s
  | 4 => some .pllsai
  | _ => none

/-- The system clock code of a `val` operand; values above 3 are rejected (42_sysclk_select.md
R130). -/
def sysclkCode (val : Nat) : Option (BitVec 2) := if val > 3 then none else some (BitVec.ofNat 2 val)

/-- The bypass bit of a `val` operand; values above 1 are rejected (43_hse_bypass.md R140). -/
def bypassBit (val : Nat) : Option Bool := if val > 1 then none else some (val == 1)

/-- The PLLSRC bit of a PLL input source: 0 HSI, 1 HSE, nothing else (44_pll_config.md R152). -/
def pllSourceBit : Nat → Option Bool
  | 0 => some false
  | 1 => some true
  | _ => none

/-- The N check of step 3 (44_pll_config.md R153). -/
def nInRange (n : Nat) : Bool := 50 ≤ n && n ≤ 432

/-- The M check of step 4 (44_pll_config.md R154). -/
def mInRange (m : Nat) : Bool := 2 ≤ m && m ≤ 63

/-- `N[8:0] ++ M[5:0]`, the new PLLCFGR[14:0] of step 5 (44_pll_config.md R155). -/
def pllFactors (n m : Nat) : BitVec 15 := BitVec.ofNat 9 n ++ BitVec.ofNat 6 m

/-- The divider d of step 6: M under `FROM_M`, P under `FROM_P` (44_pll_config.md R156). -/
def dividerOf (src : PSource) (m p : Nat) : Nat :=
  match src with
  | .fromM => m
  | .fromP => p

/-- `PCODE(d)`, defined on 2, 4, 6 and 8 only (44_pll_config.md R158; 10_state.md R29). -/
def pcode : Nat → Option (BitVec 2)
  | 2 => some 0#2
  | 4 => some 1#2
  | 6 => some 2#2
  | 8 => some 3#2
  | _ => none

/-- The division factor that a PLLP code stands for (10_state.md R29). -/
def dividerOfCode (code : BitVec 2) : Nat := 2 * (code.toNat + 1)

/-- The gate position of a `pos` operand; positions above 31 are rejected (45_clock_gating.md
R170). -/
def gatePosition (pos : Nat) : Option Nat := if pos > 31 then none else some pos

end Sys2Proof.Machine
end

