-- ==== Sys2Proof/Machine/Registers.lean ====
section
/-! DEFINITION. The one operation that reads and the one that writes a register, and the named
fields (10_state.md R24 to R33). -/

namespace Sys2Proof.Machine

/-- The seven registers (10_state.md R24). -/
inductive RegId where
  | cr | pllcfgr | cfgr
  | enr (b : Bus)
  deriving DecidableEq, Repr

/-- The current value of a register (00_scope.md R12). -/
def State.reg (s : State) : RegId → Word
  | .cr => s.cr
  | .pllcfgr => s.pllcfgr
  | .cfgr => s.cfgr
  | .enr b => busGet s.enr b

/-- The state with one register replaced. -/
def State.setReg (s : State) (r : RegId) (w : Word) : State :=
  match r with
  | .cr => { s with cr := w }
  | .pllcfgr => { s with pllcfgr := w }
  | .cfgr => { s with cfgr := w }
  | .enr b => { s with enr := busSet s.enr b w }

/-- `REG[lo+n-1:lo] <- v`, one atomic step (10_state.md R31). Every register write of every agent is
this operation. -/
def State.writeField {n : Nat} (s : State) (r : RegId) (lo : Nat) (v : BitVec n) : State :=
  s.setReg r (setField (s.reg r) lo v)

/-- `REG[i] <- b` for one bit. -/
def State.writeBit (s : State) (r : RegId) (i : Nat) (b : Bool) : State :=
  s.writeField r i (BitVec.ofBool b)

/-- `CR[ON_BIT(c)]` (10_state.md R25, R26). -/
def State.isOn (s : State) (c : ClockSource) : Bool := s.cr.getLsbD (onBit s.cfg c)

/-- `CR[RDY_BIT(c)]` (10_state.md R25, R26). -/
def State.isReady (s : State) (c : ClockSource) : Bool := s.cr.getLsbD (rdyBit s.cfg c)

/-- CR.HSEBYP (10_state.md R25). -/
def State.hseByp (s : State) : Bool := s.cr.getLsbD hseBypBit

/-- CFGR.SW, the requested system clock source (10_state.md R27). -/
def State.sw (s : State) : BitVec 2 := getField s.cfgr swLo 2

/-- CFGR.SWS, the confirmed system clock source (10_state.md R27). -/
def State.sws (s : State) : BitVec 2 := getField s.cfgr swsLo 2

/-- PLLCFGR.PLLM (10_state.md R28). -/
def State.pllM (s : State) : BitVec 6 := getField s.pllcfgr pllMLo 6

/-- PLLCFGR.PLLN (10_state.md R28). -/
def State.pllN (s : State) : BitVec 9 := getField s.pllcfgr pllNLo 9

/-- PLLCFGR.PLLP (10_state.md R28). -/
def State.pllP (s : State) : BitVec 2 := getField s.pllcfgr pllPLo 2

/-- PLLCFGR.PLLSRC (10_state.md R28). -/
def State.pllSrc (s : State) : Bool := s.pllcfgr.getLsbD pllSrcBit

end Sys2Proof.Machine
end

