-- ==== Sys2Proof/Machine/Ops.lean ====
section
/-! DEFINITION. The operations all commands share: issue, the change of phase, the wait primitive,
the error end, and reset (40_command_cycle.md; 70_reset_and_hazards.md R210). RCC-CTL takes no
exceptions: an error is `finish` with a status (60_exceptions.md R182), and there is no return from
one. -/

namespace Sys2Proof.Machine

/-- `issue(w)`: the latch, the phase and `busy`; `last_status`, the registers and `wait_count` stay
(40_command_cycle.md R100). -/
def State.issueWord (s : State) (w : Word) : State :=
  { s with cmd := some w, phase := .decode, busy := true }

/-- `phase <- p`. -/
def State.goto (s : State) (p : Phase) : State := { s with phase := p }

/-- Entry into a wait phase, which sets `wait_count <- 0` (40_command_cycle.md R105; 10_state.md
R44). -/
def State.enterWait (s : State) (p : Phase) : State := { s with waitCount := 0, phase := p }

/-- `raise x` is `finish(x)`: it undoes nothing (40_command_cycle.md R108; 60_exceptions.md R182,
R183). Every error end of a command is this operation. -/
def State.raise (s : State) (x : Status) : State := s.finish x

/-- A poll of a wait phase that found its condition false: under `WAIT_BOUND` = NONE the controller
holds, under k it counts the poll and gives up at the k-th (40_command_cycle.md R105). -/
def State.failedPoll (s : State) : State :=
  match s.cfg.waitBound with
  | none => s
  | some k =>
    if s.waitCount + 1 = k then ({ s with waitCount := s.waitCount + 1 } : State).raise .hardwareTimeout
    else { s with waitCount := s.waitCount + 1 }

/-- `wait_until(cond) then next` (40_command_cycle.md R105): `next` is what the step does, beside
clearing `wait_count`, when the condition holds. -/
def State.waitUntil (s : State) (cond : Bool) (next : State → State) : State :=
  if cond then next { s with waitCount := 0 } else s.failedPoll

/-- The model fault of a meaning that runs in a phase which is not its command's: in IDLE the latch
holds no value (10_state.md R39). No reachable state raises it (log entry 7). -/
def State.strayFault (s : State) : Fault :=
  if s.phase = .idle then .cmdNoValue else .phaseMismatch

/-- Reset: every piece of the spec's state takes its reset value at once (70_reset_and_hazards.md
R210, R211, R212). The recorded faults are kept, and what is not the block's (the parameters, the
moves to come, what the host has seen) stays. The HSICAL byte is a new draw. -/
def State.assertReset (s : State) : State :=
  { s with
    cr := resetCr s.cfg (Config.hsiCal (s.resets + 1))
    cfgr := resetCfgr s.cfg
    pllcfgr := resetPllcfgr s.cfg
    enr := s.cfg.enrReset
    phase := .idle
    cmd := none
    busy := false
    lastStatus := none
    waitCount := 0
    resets := s.resets + 1 }

end Sys2Proof.Machine
end

