-- ==== Sys2Proof/Machine/ClockGating.lean ====
section
/-! DEFINITION. PERIPH_ENABLE and PERIPH_DISABLE (45_clock_gating.md R170 to R173). -/

namespace Sys2Proof.Machine

/-- Phase GATE_SET: the position check, then the write of the one gate bit and the end (R170,
R171). -/
def gateSet (bus : Bus) (pos : Nat) (on : Bool) (s : State) : State :=
  match gatePosition pos with
  | none => s.raise .invalidParameter
  | some i => (s.writeBit (.enr bus) i on).finish .ok

/-- One controller step of PERIPH_ENABLE bus, pos (R170; the DECODE step is 40_command_cycle.md
R102). -/
def execPeriphEnable (bus : Bus) (pos : Nat) (s : State) : Host.Outcome State Fault Refusal :=
  match s.phase with
  | .decode => .next (s.goto .gateSet)
  | .gateSet => .next (gateSet bus pos true s)
  | _ => .fault s.strayFault

/-- One controller step of PERIPH_DISABLE bus, pos (R171). -/
def execPeriphDisable (bus : Bus) (pos : Nat) (s : State) : Host.Outcome State Fault Refusal :=
  match s.phase with
  | .decode => .next (s.goto .gateSet)
  | .gateSet => .next (gateSet bus pos false s)
  | _ => .fault s.strayFault

end Sys2Proof.Machine
end

