-- ==== Sys2Proof/Machine/ClockSource.lean ====
section
/-! DEFINITION. CLK_ENABLE and CLK_DISABLE (41_clock_source.md R120 to R124). -/

namespace Sys2Proof.Machine

/-- Phase CLK_SET: the source check, then the write of the enable bit (R120, R121, R122). -/
def clkSet (src : Nat) (on : Bool) (s : State) : State :=
  match sourceOfId src with
  | none => s.raise .invalidParameter
  | some c => (s.writeBit .cr (onBit s.cfg c) on).enterWait .clkWait

/-- Phase CLK_WAIT: wait until the ready bit is the requested value, then end OK (R120, R121). An id
that names no source cannot be in this phase, because CLK_SET has ended the command. -/
def clkWait (src : Nat) (on : Bool) (s : State) : Host.Outcome State Fault Refusal :=
  match sourceOfId src with
  | none => .fault .phaseMismatch
  | some c => .next (s.waitUntil (s.isReady c == on) (fun t => t.finish .ok))

/-- One controller step of CLK_ENABLE src (R120; the DECODE step is 40_command_cycle.md R102). -/
def execClkEnable (src : Nat) (s : State) : Host.Outcome State Fault Refusal :=
  match s.phase with
  | .decode => .next (s.goto .clkSet)
  | .clkSet => .next (clkSet src true s)
  | .clkWait => clkWait src true s
  | _ => .fault s.strayFault

/-- One controller step of CLK_DISABLE src (R121). -/
def execClkDisable (src : Nat) (s : State) : Host.Outcome State Fault Refusal :=
  match s.phase with
  | .decode => .next (s.goto .clkSet)
  | .clkSet => .next (clkSet src false s)
  | .clkWait => clkWait src false s
  | _ => .fault s.strayFault

end Sys2Proof.Machine
end

