-- ==== Sys2Proof/Machine/HseBypass.lean ====
section
/-! DEFINITION. HSE_BYPASS (43_hse_bypass.md R140, R141). -/

namespace Sys2Proof.Machine

/-- Phase BYP_SET: the value check, then the write of HSEBYP, whatever HSEON is, and the end (R140,
R141). -/
def bypSet (val : Nat) (s : State) : State :=
  match bypassBit val with
  | none => s.raise .invalidParameter
  | some b => (s.writeBit .cr hseBypBit b).finish .ok

/-- One controller step of HSE_BYPASS val (R140; the DECODE step is 40_command_cycle.md R102). -/
def execHseBypass (val : Nat) (s : State) : Host.Outcome State Fault Refusal :=
  match s.phase with
  | .decode => .next (s.goto .bypSet)
  | .bypSet => .next (bypSet val s)
  | _ => .fault s.strayFault

end Sys2Proof.Machine
end

