-- ==== Sys2Proof/Machine/PllConfig.lean ====
section
/-! DEFINITION. PLL_CONFIG: the seven steps of 44_pll_config.md R150, one definition a phase. -/

namespace Sys2Proof.Machine

/-- Step 1, phase PLL_OFF: PLLON <- 0 (R151). -/
def pllOff (s : State) : State :=
  (s.writeBit .cr (onBit s.cfg .pll) false).enterWait .pllOffWait

/-- Step 1, phase PLL_OFF_WAIT: wait for PLLRDY = 0 (R151). -/
def pllOffWait (s : State) : State :=
  s.waitUntil (!s.isReady .pll) (fun t => t.goto .pllSrc)

/-- Step 2, phase PLL_SRC: the source check and the write of PLLSRC (R152). -/
def pllSource (src : Nat) (s : State) : State :=
  match pllSourceBit src with
  | none => s.raise .invalidParameter
  | some b => (s.writeBit .pllcfgr pllSrcBit b).goto .pllChkN

/-- Step 3, phase PLL_CHK_N (R153). -/
def pllCheckN (n : Nat) (s : State) : State :=
  if nInRange n then s.goto .pllChkM else s.raise .invalidParameter

/-- Step 4, phase PLL_CHK_M (R154). -/
def pllCheckM (m : Nat) (s : State) : State :=
  if mInRange m then s.goto .pllMn else s.raise .invalidParameter

/-- Step 5, phase PLL_MN: PLLCFGR[14:0] <- N[8:0] ++ M[5:0] in one write (R155). -/
def pllWriteFactors (m n : Nat) (s : State) : State :=
  (s.writeField .pllcfgr pllMLo (pllFactors n m)).goto .pllP

/-- Step 6, phase PLL_P: the code of the divider, from M or from P, and the write of PLLP (R156,
R158). -/
def pllWriteCode (m p : Nat) (s : State) : State :=
  match pcode (dividerOf s.cfg.pSource m p) with
  | none => s.raise .invalidParameter
  | some code => (s.writeField .pllcfgr pllPLo code).goto .pllOn

/-- Step 7, phase PLL_ON: PLLON <- 1 (R157). -/
def pllTurnOn (s : State) : State :=
  (s.writeBit .cr (onBit s.cfg .pll) true).enterWait .pllOnWait

/-- Step 7, phase PLL_ON_WAIT: wait for PLLRDY = 1, then end OK (R157). -/
def pllOnWait (s : State) : State :=
  s.waitUntil (s.isReady .pll) (fun t => t.finish .ok)

/-- One controller step of PLL_CONFIG src, M, N, P (R150; the DECODE step is 40_command_cycle.md
R102). -/
def execPllConfig (src m n p : Nat) (s : State) : Host.Outcome State Fault Refusal :=
  match s.phase with
  | .decode => .next (s.goto .pllOff)
  | .pllOff => .next (pllOff s)
  | .pllOffWait => .next (pllOffWait s)
  | .pllSrc => .next (pllSource src s)
  | .pllChkN => .next (pllCheckN n s)
  | .pllChkM => .next (pllCheckM m s)
  | .pllMn => .next (pllWriteFactors m n s)
  | .pllP => .next (pllWriteCode m p s)
  | .pllOn => .next (pllTurnOn s)
  | .pllOnWait => .next (pllOnWait s)
  | _ => .fault s.strayFault

end Sys2Proof.Machine
end

