-- ==== Sys2Proof/Machine/SysclkSelect.lean ====
section
/-! DEFINITION. SYSCLK_SELECT (42_sysclk_select.md R130 to R132). -/

namespace Sys2Proof.Machine

/-- Phase SYS_SET: the range check, then the write of SW in one step (R130, R131). -/
def sysSet (val : Nat) (s : State) : State :=
  match sysclkCode val with
  | none => s.raise .invalidParameter
  | some v => (s.writeField .cfgr swLo v).enterWait .sysWait

/-- Phase SYS_WAIT: wait until SWS is the requested value, then end OK (R130). -/
def sysWait (val : Nat) (s : State) : State :=
  s.waitUntil (s.sws.toNat == val) (fun t => t.finish .ok)

/-- One controller step of SYSCLK_SELECT val (R130; the DECODE step is 40_command_cycle.md
R102). -/
def execSysclkSelect (val : Nat) (s : State) : Host.Outcome State Fault Refusal :=
  match s.phase with
  | .decode => .next (s.goto .sysSet)
  | .sysSet => .next (sysSet val s)
  | .sysWait => .next (sysWait val s)
  | _ => .fault s.strayFault

end Sys2Proof.Machine
end

