-- ==== Sys2Proof/Machine/Dispatch.lean ====
section
/-! DEFINITION. One controller step of a command: one arm for each constructor of `Instr`. -/

namespace Sys2Proof.Machine

def exec (i : Instr) (s : State) : Host.Outcome State Fault Refusal :=
  match i with
  | .clkEnable src => Sys2Proof.Machine.execClkEnable src s
  | .clkDisable src => Sys2Proof.Machine.execClkDisable src s
  | .sysclkSelect val => Sys2Proof.Machine.execSysclkSelect val s
  | .hseBypass val => Sys2Proof.Machine.execHseBypass val s
  | .pllConfig src m n p => Sys2Proof.Machine.execPllConfig src m n p s
  | .periphEnable bus pos => Sys2Proof.Machine.execPeriphEnable bus pos s
  | .periphDisable bus pos => Sys2Proof.Machine.execPeriphDisable bus pos s

end Sys2Proof.Machine
end

