-- ==== Sys2Proof/Machine/Environment.lean ====
section
/-! DEFINITION. The clock environment (60_exceptions.md R190 to R193). -/

namespace Sys2Proof.Machine

/-- `env_ready(c)`: enabled when the ready bit differs from the enable bit; it then copies the
enable bit (60_exceptions.md R190). A move that is not enabled changes nothing (log entry 2). -/
def State.envReady (s : State) (c : ClockSource) : State :=
  if s.isReady c != s.isOn c then s.writeBit .cr (rdyBit s.cfg c) (s.isOn c) else s

/-- `env_switch()`: enabled when SWS differs from SW; it then copies SW (60_exceptions.md R191). A
move that is not enabled changes nothing (log entry 2). -/
def State.envSwitch (s : State) : State :=
  if s.sws != s.sw then s.writeField .cfgr swsLo s.sw else s

end Sys2Proof.Machine
end

