-- ==== Sys2Proof/Machine/Ports.lean ====
section
/-! DEFINITION. The host's read port and the output signals, each the live value of the state
(10_state.md R45; 20_memory.md R60 to R65; 45_clock_gating.md R172). -/

namespace Sys2Proof.Machine

/-- The offset of a register from `RCC_BASE` (20_memory.md R62). -/
def regOffset (p : Params) : RegId → Nat
  | .cr => 0x00
  | .pllcfgr => 0x04
  | .cfgr => 0x08
  | .enr b => busGet p.enrOffset b

/-- The address of a register. The sum does not wrap: a register whose address would need more than
32 bits cannot be read (DESIGN CHOICE, log entry 10). -/
def regAddress (p : Params) (r : RegId) : Nat := p.rccBase.toNat + regOffset p r

/-- The seven registers. -/
def allRegs : List RegId :=
  [.cr, .pllcfgr, .cfgr, .enr .bus0, .enr .bus1, .enr .bus2, .enr .bus3]

/-- The register at an address (20_memory.md R60, R61). -/
def regAt (p : Params) (addr : Word) : Option RegId :=
  allRegs.find? (fun r => regAddress p r == addr.toNat)

/-- `MemRead(addr, size)`: the whole register, for a 32-bit read at a register address; any other
read is UNMAPPED_READ (20_memory.md R63, R64). -/
def memRead (s : State) (addr : Word) (size : Nat) : Except Fault Word :=
  if size = 4 then
    match regAt s.cfg addr with
    | some r => .ok (s.reg r)
    | none => .error (.unmappedRead addr size)
  else .error (.unmappedRead addr size)

/-- Byte `k` of a register where a platform splits it: `R[8k+7:8k]`, little-endian (20_memory.md
R65). -/
def regByte (s : State) (r : RegId) (k : Nat) : BitVec 8 := getField (s.reg r) (8 * k) 8

/-- The clock-gate output `gate[b][i]` (45_clock_gating.md R172). -/
def gate (s : State) (b : Bus) (i : Nat) : Bool := (busGet s.enr b).getLsbD i

/-- The oscillator and PLL control signals of 10_state.md R45. -/
structure ClockControl where
  hsiOn : Bool
  hseOn : Bool
  hseByp : Bool
  pllOn : Bool
  plli2sOn : Bool
  pllsaiOn : Bool
  pllM : BitVec 6
  pllN : BitVec 9
  pllP : BitVec 2
  pllSrc : Bool
  deriving DecidableEq, Repr

/-- What the block drives to the clock environment's oscillators and PLLs (10_state.md R45). -/
def clockControl (s : State) : ClockControl where
  hsiOn := s.isOn .hsi
  hseOn := s.isOn .hse
  hseByp := s.hseByp
  pllOn := s.isOn .pll
  plli2sOn := s.isOn .plli2s
  pllsaiOn := s.isOn .pllsai
  pllM := s.pllM
  pllN := s.pllN
  pllP := s.pllP
  pllSrc := s.pllSrc

/-- What the block drives to the clock switch (10_state.md R45). -/
def switchControl (s : State) : BitVec 2 := s.sw

/-- The host's register read: the value, or the recorded fault and no value; nothing else changes
(20_memory.md R63, R68; 60_exceptions.md R188; log entries 6 and 9). -/
def State.hostRead (s : State) (addr : Word) (size : Nat) : State :=
  match memRead s addr size with
  | .ok w => { s with response := some (.data w) }
  | .error f => { s with response := none, faults := f :: s.faults }

/-- The host's read of `busy` and `last_status` (10_state.md R43; 60_exceptions.md R198). -/
def State.hostStatus (s : State) : State :=
  { s with response := some (.status s.busy s.lastStatus) }

end Sys2Proof.Machine
end

