-- ==== Sys2Proof/Machine/Cycle.lean ====
section
/-! DEFINITION. The controller's step (40_command_cycle.md R102 to R109) and the moves of the three
agents (10_state.md R20). -/

namespace Sys2Proof.Machine

/-- The controller's step. In IDLE it has none (10_state.md R41). In DECODE a word that encodes no
command ends ILLEGAL_COMMAND (40_command_cycle.md R102). Otherwise the latched command takes the
step of its phase; the operands are read from the latch (10_state.md R42). -/
def controllerStep (s : State) : Host.Outcome State Fault Refusal :=
  if s.phase = .idle then .next s
  else
    match s.cmd with
    | none => .fault .cmdNoValue
    | some w =>
      match decode w with
      | .ok i => exec i s
      | .error _ =>
        if s.phase = .decode then .next (s.raise .illegalCommand) else .fault .phaseMismatch

/-- One scheduled step. The head of the schedule moves and leaves the list; with an empty list the
controller moves. A host that is next with a word to issue while `busy = 1` has no move
(40_command_cycle.md R101; 60_exceptions.md R195): it waits at the head of the list and the
controller moves instead (log entry 2). -/
def agentStep (s : State) : Host.Outcome State Fault Refusal :=
  match s.schedule with
  | [] => controllerStep s
  | .controller :: rest => controllerStep { s with schedule := rest }
  | .envReady c :: rest => .next (({ s with schedule := rest } : State).envReady c)
  | .envSwitch :: rest => .next ({ s with schedule := rest } : State).envSwitch
  | .issue w :: rest =>
    if s.busy then controllerStep s else .next (({ s with schedule := rest } : State).issueWord w)
  | .readRegister addr size :: rest =>
    .next (({ s with schedule := rest } : State).hostRead addr size)
  | .readStatus :: rest => .next ({ s with schedule := rest } : State).hostStatus
  | .reset :: rest => .next ({ s with schedule := rest } : State).assertReset

/-- The schedule whose first move is the controller's. -/
def controllerFirst : List Move → List Move
  | [] => []
  | moves => .controller :: moves

/-- The state right after the host has issued `w`, with the controller to move: the next step
decodes `w` (40_command_cycle.md R100, R102). -/
def State.withCommand (s : State) (w : Word) : State :=
  { s.issueWord w with schedule := controllerFirst s.schedule }

end Sys2Proof.Machine
end

