-- ==== Sys2Proof/Machine/Step.lean ====
section
/-! DEFINITION. One step of RCC-CTL, and the state in which a given command word is the next to
run. -/

namespace Sys2Proof.Machine

/-- One step: the move of the agent that is next (10_state.md R20; 20_memory.md R69). -/
def step (s : State) : Host.Outcome State Fault Refusal := agentStep s

/-- `s` with the command word issued: RCC-CTL fetches nothing (20_memory.md R74), so the word stands
in the command latch, in phase DECODE, and the very next step runs it (log entry 12). -/
def State.withFetchWord (s : State) (nbits w : Nat) : State := s.withCommand (tableWord nbits w)

end Sys2Proof.Machine
end

