-- ==== Sys2Proof/Machine/Assembler.lean ====
section
/-! DEFINITION. The command syntax and the pseudo-commands (30_encoding.md R95, R96). The machine
never sees them: they expand to commands of `Instr`. -/

namespace Sys2Proof.Machine

/-- A line of the command language: a core command, or a pseudo-command of R96. -/
inductive Pseudo where
  | hsiOn | hsiOff | hseOn | hseOff | pllOn | pllOff
  | sysclkHsi | sysclkHse | sysclkPll
  /-- `PLL_CONFIG_LIT src, M=#m, N=#n`. -/
  | pllConfigLit (src m n : Nat)
  deriving DecidableEq, Repr

/-- The expansion of a pseudo-command (R96). -/
def expandPseudo : Pseudo → Instr
  | .hsiOn => .clkEnable 0
  | .hsiOff => .clkDisable 0
  | .hseOn => .clkEnable 1
  | .hseOff => .clkDisable 1
  | .pllOn => .clkEnable 2
  | .pllOff => .clkDisable 2
  | .sysclkHsi => .sysclkSelect 0
  | .sysclkHse => .sysclkSelect 1
  | .sysclkPll => .sysclkSelect 2
  | .pllConfigLit src m n => .pllConfig src m n 0

/-- The words of a line, split at blanks and commas. -/
def asmTokens (line : List Char) : List (List Char) :=
  let split := line.foldr
    (fun c (acc : List Char × List (List Char)) =>
      if c = ' ' ∨ c = ',' then ([], if acc.1.isEmpty then acc.2 else acc.1 :: acc.2)
      else (c :: acc.1, acc.2))
    ([], [])
  if split.1.isEmpty then split.2 else split.1 :: split.2

/-- The digits of the command language, each at the place of its value (00_scope.md R11). -/
def digitChars : List Char := "0123456789ABCDEF".toList

/-- The value of a digit among the first `base` digits; letters of either case (log entry 19). -/
def digitValue (base : Nat) (c : Char) : Option Nat :=
  (digitChars.take base).findIdx? (fun d => d == c.toUpper)

/-- The number whose digits, the most significant first, are `ds`. -/
def numberOfDigits (base : Nat) (ds : List Nat) : Nat := ds.foldl (fun n d => base * n + d) 0

/-- A number written in digits of the base, at least one; `_` only groups digits (00_scope.md
R11). -/
def digitsValue (base : Nat) (cs : List Char) : Option Nat :=
  let digits := cs.filter (fun c => c != '_')
  if digits.isEmpty then none else (digits.mapM (digitValue base)).map (numberOfDigits base)

/-- `#` and a number: decimal, or hexadecimal after `0x` (R95; 00_scope.md R11). -/
def asmNumber : List Char → Option Nat
  | '#' :: '0' :: 'x' :: ds => digitsValue 16 ds
  | '#' :: ds => digitsValue 10 ds
  | _ => none

/-- An operand that may be one of the listed symbols or a number (R95). -/
def asmOperand (symbols : List (String × Nat)) (token : List Char) : Option Nat :=
  match symbols.find? (fun e => e.1.toList == token) with
  | some e => some e.2
  | none => asmNumber token

/-- The symbols of `src` (R95). -/
def srcSymbols : List (String × Nat) :=
  [("HSI", 0), ("HSE", 1), ("PLL", 2), ("PLLI2S", 3), ("PLLSAI", 4)]

/-- The symbols of SYSCLK_SELECT's `val` (R95). -/
def sysclkSymbols : List (String × Nat) := [("HSI", 0), ("HSE", 1), ("PLLP", 2), ("PLL", 3)]

/-- The symbols of HSE_BYPASS's `val` (R95). -/
def bypassSymbols : List (String × Nat) := [("OFF", 0), ("ON", 1)]

/-- The symbols of `bus` (R95). -/
def busSymbols : List (String × Nat) := [("BUS0", 0), ("BUS1", 1), ("BUS2", 2), ("BUS3", 3)]

/-- A bus operand; a number above 3 names no bus (R89, R95). -/
def asmBus (token : List Char) : Option Bus :=
  ((asmOperand busSymbols token).filter (· < 4)).map busOfNat

/-- An operand written `key=#number` (R95). -/
def asmKeyed (key : Char) : List Char → Option Nat
  | k :: '=' :: rest => if k = key then asmNumber rest else none
  | _ => none

/-- The pseudo-commands without operands (R96). -/
def plainPseudos : List (String × Pseudo) :=
  [("HSI_ON", .hsiOn), ("HSI_OFF", .hsiOff), ("HSE_ON", .hseOn), ("HSE_OFF", .hseOff),
    ("PLL_ON", .pllOn), ("PLL_OFF", .pllOff), ("SYSCLK_HSI", .sysclkHsi),
    ("SYSCLK_HSE", .sysclkHse), ("SYSCLK_PLL", .sysclkPll)]

/-- A command with one operand (R95). -/
def asmUnary (mnemonic a : List Char) : Option Instr :=
  if mnemonic == "CLK_ENABLE".toList then (asmOperand srcSymbols a).map .clkEnable
  else if mnemonic == "CLK_DISABLE".toList then (asmOperand srcSymbols a).map .clkDisable
  else if mnemonic == "SYSCLK_SELECT".toList then (asmOperand sysclkSymbols a).map .sysclkSelect
  else if mnemonic == "HSE_BYPASS".toList then (asmOperand bypassSymbols a).map .hseBypass
  else none

/-- A gate command (R95). -/
def asmBinary (mnemonic a b : List Char) : Option Instr :=
  if mnemonic == "PERIPH_ENABLE".toList then do
    some (.periphEnable (← asmBus a) (← asmNumber b))
  else if mnemonic == "PERIPH_DISABLE".toList then do
    some (.periphDisable (← asmBus a) (← asmNumber b))
  else none

/-- PLL_CONFIG without `P=`, which means P = 0, and the pseudo-command PLL_CONFIG_LIT (R95, R96). -/
def asmTernary (mnemonic a b c : List Char) : Option Instr :=
  if mnemonic == "PLL_CONFIG".toList then do
    some (.pllConfig (← asmOperand srcSymbols a) (← asmKeyed 'M' b) (← asmKeyed 'N' c) 0)
  else if mnemonic == "PLL_CONFIG_LIT".toList then do
    some (expandPseudo
      (.pllConfigLit (← asmOperand srcSymbols a) (← asmKeyed 'M' b) (← asmKeyed 'N' c)))
  else none

/-- PLL_CONFIG with all four operands (R95). -/
def asmQuaternary (mnemonic a b c d : List Char) : Option Instr :=
  if mnemonic == "PLL_CONFIG".toList then do
    some (.pllConfig (← asmOperand srcSymbols a) (← asmKeyed 'M' b) (← asmKeyed 'N' c)
      (← asmKeyed 'P' d))
  else none

/-- One line of the command language (R95): the command it stands for, if it is one and every
operand fits its field. -/
def assembleLine (line : String) : Option Instr :=
  let parsed : Option Instr :=
    match asmTokens line.toList with
    | [m] => (plainPseudos.find? (fun e => e.1.toList == m)).map (fun e => expandPseudo e.2)
    | [m, a] => asmUnary m a
    | [m, a, b] => asmBinary m a b
    | [m, a, b, c] => asmTernary m a b c
    | [m, a, b, c, d] => asmQuaternary m a b c d
    | _ => none
  parsed.filter Instr.wellFormed

end Sys2Proof.Machine
end

