-- ==== Sys2Proof/Safety.lean ====
section
/-! DEFINITION. The terms in which claims about RCC-CTL are stated: runs of several steps, the phase
of each command, the invariant of the reachable states, and which bits each command owns. -/

namespace Sys2Proof.Machine

/-- `n` steps, stopping at the first fault or refusal. -/
def stepN : Nat → State → Host.Outcome State Fault Refusal
  | 0, s => .next s
  | n + 1, s =>
    match step s with
    | .next t => stepN n t
    | .fault f => .fault f
    | .refused r => .refused r

/-- The phase that follows DECODE (40_command_cycle.md R102). -/
def firstPhase : Instr → Phase
  | .clkEnable _ => .clkSet
  | .clkDisable _ => .clkSet
  | .sysclkSelect _ => .sysSet
  | .hseBypass _ => .bypSet
  | .pllConfig _ _ _ _ => .pllOff
  | .periphEnable _ _ => .gateSet
  | .periphDisable _ _ => .gateSet

/-- The wait phases (40_command_cycle.md R105; 10_state.md R41). -/
def isWaitPhase : Phase → Bool
  | .clkWait => true
  | .sysWait => true
  | .pllOffWait => true
  | .pllOnWait => true
  | _ => false

/-- The condition that the command waits for in the phase the state holds; `none` where that phase
is no wait phase of the command (R120, R121, R130, R150). -/
def waitCond (i : Instr) (s : State) : Option Bool :=
  match i, s.phase with
  | .clkEnable src, .clkWait => (sourceOfId src).map (fun c => s.isReady c)
  | .clkDisable src, .clkWait => (sourceOfId src).map (fun c => !s.isReady c)
  | .sysclkSelect val, .sysWait => some (s.sws.toNat == val)
  | .pllConfig _ _ _ _, .pllOffWait => some (!s.isReady .pll)
  | .pllConfig _ _ _ _, .pllOnWait => some (s.isReady .pll)
  | _, _ => none

/-- The state in which a command has ended with status `x` and nothing else has changed
(40_command_cycle.md R107). -/
def endedWith (s : State) (x : Status) : State :=
  { s with lastStatus := some x, waitCount := 0, phase := .idle, busy := false, cmd := none }

/-- The next move is a reset. -/
def resetIsNext (s : State) : Bool := s.schedule.head? == some .reset

/-- The latched command is `i`. -/
def Runs (s : State) (i : Instr) : Prop := ∃ w, s.cmd = some w ∧ decode w = .ok i

/-- The main PLL is disabled and confirmed disabled (44_pll_config.md R161). -/
structure PllIsOff (s : State) : Prop where
  off : s.isOn .pll = false
  unlocked : s.isReady .pll = false

/-- PLLSRC is the source the command asked for, and the source was legal (R152). -/
structure SourceWritten (src : Nat) (s : State) : Prop where
  legal : src ≤ 1
  written : s.pllSrc = decide (src = 1)

/-- PLLM and PLLN are what the command asked for (R155). -/
structure FactorsWritten (m n : Nat) (s : State) : Prop where
  mWritten : s.pllM.toNat = m
  nWritten : s.pllN.toNat = n

/-- PLLP is the code of the divider (R156). -/
def CodeWritten (m p : Nat) (s : State) : Prop :=
  pcode (dividerOf s.cfg.pSource m p) = some s.pllP

/-- The environment's answer to step 1 of PLL_CONFIG: where the PLL starts locked, the environment
clears PLLRDY after PLLON has been cleared; where PLLRDY = 0 already, there is nothing to answer. -/
def pllUnlocks (s : State) : List Move :=
  if s.isReady .pll then [.envReady .pll] else []

/-- N and M have passed their range checks (R153, R154). -/
structure FactorsLegal (m n : Nat) : Prop where
  nLow : 50 ≤ n
  nHigh : n ≤ 432
  mLow : 2 ≤ m
  mHigh : m ≤ 63

/-- What PLL_CONFIG has done when it stands in a phase (R150, R161). -/
def PllProgress (src m n p : Nat) (s : State) : Phase → Prop
  | .decode => True
  | .pllOff => True
  | .pllOffWait => s.isOn .pll = false
  | .pllSrc => PllIsOff s
  | .pllChkN => PllIsOff s ∧ SourceWritten src s
  | .pllChkM => PllIsOff s ∧ SourceWritten src s ∧ 50 ≤ n ∧ n ≤ 432
  | .pllMn => PllIsOff s ∧ SourceWritten src s ∧ FactorsLegal m n
  | .pllP => PllIsOff s ∧ SourceWritten src s ∧ FactorsLegal m n ∧ FactorsWritten m n s
  | .pllOn =>
    PllIsOff s ∧ SourceWritten src s ∧ FactorsLegal m n ∧ FactorsWritten m n s ∧ CodeWritten m p s
  | .pllOnWait =>
    s.isOn .pll = true ∧ SourceWritten src s ∧ FactorsLegal m n ∧ FactorsWritten m n s ∧
      CodeWritten m p s
  | _ => False

/-- The phase the state holds belongs to command `i`, and what `i` has written by then stands. -/
def Progress (i : Instr) (s : State) : Prop :=
  match i with
  | .clkEnable src =>
    s.phase = .decode ∨ s.phase = .clkSet ∨
      (s.phase = .clkWait ∧ ∃ c, sourceOfId src = some c ∧ s.isOn c = true)
  | .clkDisable src =>
    s.phase = .decode ∨ s.phase = .clkSet ∨
      (s.phase = .clkWait ∧ ∃ c, sourceOfId src = some c ∧ s.isOn c = false)
  | .sysclkSelect val =>
    s.phase = .decode ∨ s.phase = .sysSet ∨ (s.phase = .sysWait ∧ s.sw.toNat = val)
  | .hseBypass _ => s.phase = .decode ∨ s.phase = .bypSet
  | .pllConfig src m n p => PllProgress src m n p s s.phase
  | .periphEnable _ _ => s.phase = .decode ∨ s.phase = .gateSet
  | .periphDisable _ _ => s.phase = .decode ∨ s.phase = .gateSet

/-- `wait_count` is in its range: 0 where `WAIT_BOUND` is NONE, below k where it is k; and it is 0
outside the wait phases (10_state.md R44; 40_command_cycle.md R105, R107). -/
structure WaitCountInRange (s : State) : Prop where
  bounded : ∀ k, s.cfg.waitBound = some k → s.waitCount < k
  unbounded : s.cfg.waitBound = none → s.waitCount = 0
  outside : isWaitPhase s.phase = false → s.waitCount = 0

/-- The operand check that command `i` fails in the phase the state holds (60_exceptions.md R181):
the causes of INVALID_PARAMETER. -/
def FailsCheck (i : Instr) (s : State) : Prop :=
  match i, s.phase with
  | .clkEnable src, .clkSet => src > 4
  | .clkDisable src, .clkSet => src > 4
  | .sysclkSelect val, .sysSet => val > 3
  | .hseBypass val, .bypSet => val > 1
  | .pllConfig src _ _ _, .pllSrc => src ≠ 0 ∧ src ≠ 1
  | .pllConfig _ _ n _, .pllChkN => n < 50 ∨ n > 432
  | .pllConfig _ m _ _, .pllChkM => m < 2 ∨ m > 63
  | .pllConfig _ m _ p, .pllP => dividerOf s.cfg.pSource m p ∉ [2, 4, 6, 8]
  | .periphEnable _ pos, .gateSet => pos > 31
  | .periphDisable _ pos, .gateSet => pos > 31
  | _, _ => False

/-- The registers of `t` differ from those of `s` only in fields that command `i` may write
(10_state.md R34). -/
def WritesOnlyItsFields (i : Instr) (s t : State) : Prop :=
  match i with
  | .clkEnable src | .clkDisable src =>
    t.cfgr = s.cfgr ∧ t.pllcfgr = s.pllcfgr ∧ t.enr = s.enr ∧
      ∀ j, t.cr.getLsbD j ≠ s.cr.getLsbD j → ∃ c, sourceOfId src = some c ∧ j = onBit s.cfg c
  | .sysclkSelect _ =>
    t.cr = s.cr ∧ t.pllcfgr = s.pllcfgr ∧ t.enr = s.enr ∧
      ∀ j, t.cfgr.getLsbD j ≠ s.cfgr.getLsbD j → j < 2
  | .hseBypass _ =>
    t.cfgr = s.cfgr ∧ t.pllcfgr = s.pllcfgr ∧ t.enr = s.enr ∧
      ∀ j, t.cr.getLsbD j ≠ s.cr.getLsbD j → j = 18
  | .pllConfig _ _ _ _ =>
    t.cfgr = s.cfgr ∧ t.enr = s.enr ∧ (∀ j, t.cr.getLsbD j ≠ s.cr.getLsbD j → j = 24) ∧
      ∀ j, t.pllcfgr.getLsbD j ≠ s.pllcfgr.getLsbD j → j < 15 ∨ j = 16 ∨ j = 17 ∨ j = 22
  | .periphEnable bus pos | .periphDisable bus pos =>
    t.cr = s.cr ∧ t.cfgr = s.cfgr ∧ t.pllcfgr = s.pllcfgr ∧
      ∀ b j, gate t b j ≠ gate s b j → b = bus ∧ j = pos

/-- The running command ended in this step, and not by a reset. -/
structure EndsCommand (s t : State) : Prop where
  stepped : step s = .next t
  noReset : resetIsNext s = false
  wasBusy : s.busy = true
  nowIdle : t.busy = false

/-- The invariant of the reachable states. -/
structure StateInv (s : State) : Prop where
  /-- The parameters are ones that 00_scope.md R8 admits. -/
  legal : s.cfg.Legal
  /-- 10_state.md R40. -/
  busyIff : s.busy = true ↔ s.phase ≠ .idle
  /-- 10_state.md R39, R42. -/
  cmdIff : s.cmd.isSome = true ↔ s.phase ≠ .idle
  /-- 10_state.md R44. -/
  waitCount : WaitCountInRange s
  /-- Past DECODE, the latch holds a command, the phase is one of its phases, and what it has
  written so far stands (40_command_cycle.md R102, R104). -/
  progress : s.phase ≠ .idle → s.phase ≠ .decode → ∃ i, Runs s i ∧ Progress i s

end Sys2Proof.Machine
end

