-- ==== Sys2Proof/Certificates/Slice0/Obligations.lean ====
section
/-! DEFINITION. The statements for the provers. Each docstring names the rule it formalises. A frame
is written as a record update: `t = { s with … }` says that every field of State not named there is
unchanged. -/

open Sys2Proof Sys2Proof.Machine

/-! ### Encoding -/

/-- Decode and encode agree on every well-formed command (30_encoding.md R82 to R90). -/
def Obligations.DecodeOfEncode : Prop :=
  ∀ i : Instr, i.wellFormed = true → decode (encode i) = .ok i

/-- Each command has one word: a word that decodes to `i` is the word of `i`, and `i` is
well-formed. -/
def Obligations.EncodeOfDecode : Prop :=
  ∀ (w : Word) (i : Instr), decode w = .ok i → encode i = w ∧ i.wellFormed = true

/-- R97, R90: every word selects exactly one row of the opcode map, the row of the command it
decodes to, or selects none and is illegal: its opcode is reserved (R91) or its reserved bits are
not all 0 (R92). -/
def Obligations.EveryWordSelectsOneRowOrIsIllegal : Prop :=
  ∀ w : Word,
    (∃ i, decode w = .ok i ∧
      ∀ r ∈ opcodeTable, (r.selects w = true ↔ r = rowOf (opcodeOf i))) ∨
    ((∀ r ∈ opcodeTable, r.selects w = false) ∧
      ((decode w = .error .reservedOpcode ∧ (fieldOf w 0 4 = 0 ∨ 8 ≤ fieldOf w 0 4)) ∨
        (decode w = .error .reservedBits ∧ 1 ≤ fieldOf w 0 4 ∧ fieldOf w 0 4 ≤ 7)))

/-- Words that the spec writes out decode to the commands it says (95_test_vectors.md). -/
def Obligations.SpecWordsDecode : Prop :=
  decode 0x00000011#32 = .ok (.clkEnable 1) ∧
  decode 0x00000012#32 = .ok (.clkDisable 1) ∧
  decode 0x00000023#32 = .ok (.sysclkSelect 2) ∧
  decode 0x00000014#32 = .ok (.hseBypass 1) ∧
  decode 0x06190105#32 = .ok (.pllConfig 0 2 50 3) ∧
  decode 0x00000176#32 = .ok (.periphEnable .bus3 5) ∧
  decode 0x000007E7#32 = .ok (.periphDisable .bus2 31) ∧
  decode 0x24190105#32 = .error .reservedBits ∧
  decode 0x0000000F#32 = .error .reservedOpcode

/-- R96: each pseudo-command expands to the command and the word that the rule lists. -/
def Obligations.PseudoCommandsExpand : Prop :=
  (expandPseudo .hsiOn = .clkEnable 0 ∧ encode (expandPseudo .hsiOn) = 0x00000001#32) ∧
  (expandPseudo .hsiOff = .clkDisable 0 ∧ encode (expandPseudo .hsiOff) = 0x00000002#32) ∧
  (expandPseudo .hseOn = .clkEnable 1 ∧ encode (expandPseudo .hseOn) = 0x00000011#32) ∧
  (expandPseudo .hseOff = .clkDisable 1 ∧ encode (expandPseudo .hseOff) = 0x00000012#32) ∧
  (expandPseudo .pllOn = .clkEnable 2 ∧ encode (expandPseudo .pllOn) = 0x00000021#32) ∧
  (expandPseudo .pllOff = .clkDisable 2 ∧ encode (expandPseudo .pllOff) = 0x00000022#32) ∧
  (expandPseudo .sysclkHsi = .sysclkSelect 0 ∧
    encode (expandPseudo .sysclkHsi) = 0x00000003#32) ∧
  (expandPseudo .sysclkHse = .sysclkSelect 1 ∧
    encode (expandPseudo .sysclkHse) = 0x00000013#32) ∧
  (expandPseudo .sysclkPll = .sysclkSelect 2 ∧
    encode (expandPseudo .sysclkPll) = 0x00000023#32) ∧
  ∀ src m n, expandPseudo (.pllConfigLit src m n) = .pllConfig src m n 0 ∧
    encode (expandPseudo (.pllConfigLit src m n)) = encodePll 5 src m n 0

/-- R158 and R29: PCODE is defined on 2, 4, 6 and 8 only, and the divider of a code is 2 * (code +
1). -/
def Obligations.PcodeInvertsDivider : Prop :=
  ∀ (d : Nat) (code : BitVec 2), pcode d = some code ↔ d = 2 * (code.toNat + 1)

/-! ### The step and the agents -/

/-- A step in which the controller moves runs the command that the latch decodes to: with no move
scheduled, with a controller move scheduled, and while a host waits to issue (log entries 1, 2). -/
def Obligations.StepRunsDecodedCommand : Prop :=
  ∀ (s : State) (w : Word) (i : Instr),
    s.phase ≠ .idle → s.cmd = some w → decode w = .ok i → i.wellFormed = true →
      (s.schedule = [] → step s = exec i s) ∧
      (∀ rest, s.schedule = .controller :: rest → step s = exec i { s with schedule := rest }) ∧
      (∀ v rest, s.schedule = .issue v :: rest → s.busy = true → step s = exec i s)

/-- R102: the DECODE step. A word that selects a row goes to the row's first phase and changes
nothing else; a word that selects none ends ILLEGAL_COMMAND. -/
def Obligations.DecodeStepChecksEncoding : Prop :=
  ∀ (s : State) (w : Word),
    s.schedule = [] → s.phase = .decode → s.cmd = some w →
      (∀ r ∈ opcodeTable, r.selects w = true →
        ∃ i, decode w = .ok i ∧ opcodeOf i = r.op ∧
          step s = .next { s with phase := firstPhase i }) ∧
      ((∀ r ∈ opcodeTable, r.selects w = false) → step s = .next (endedWith s .illegalCommand))

/-- R91 and R92: a reserved opcode, or a reserved bit of the opcode's format that is 1, ends
ILLEGAL_COMMAND and writes no register. -/
def Obligations.ReservedWordEndsIllegalCommand : Prop :=
  ∀ (s : State) (w : Word),
    s.schedule = [] → s.phase = .decode → s.cmd = some w →
      (fieldOf w 0 4 = 0 ∨ 8 ≤ fieldOf w 0 4 ∨
        ((fieldOf w 0 4 = 1 ∨ fieldOf w 0 4 = 2) ∧ fieldOf w 7 25 ≠ 0) ∨
        ((fieldOf w 0 4 = 3 ∨ fieldOf w 0 4 = 4 ∨ fieldOf w 0 4 = 6 ∨ fieldOf w 0 4 = 7) ∧
          fieldOf w 12 20 ≠ 0) ∨
        (fieldOf w 0 4 = 5 ∧ fieldOf w 29 3 ≠ 0)) →
      step s = .next (endedWith s .illegalCommand)

/-- The host's issue: when `busy = 0` it loads the latch, enters DECODE and sets `busy`, and nothing
else changes (R100). While `busy = 1` the host has no move: the controller moves and the word waits,
which is the model's choice (log entry 2). -/
def Obligations.IssueLoadsLatchOnlyWhenIdle : Prop :=
  ∀ (s : State) (w : Word) (rest : List Move),
    s.schedule = .issue w :: rest →
      (s.busy = false →
        step s = .next { s with schedule := rest, cmd := some w, phase := .decode, busy := true }) ∧
      (s.busy = true → step s = controllerStep s)

/-- The host's register read returns the register at the address and changes nothing of the block
(R63, R68); any other read returns nothing and is recorded as UNMAPPED_READ, which is how the model
keeps the fault (R64, R188; log entries 6, 9 and 10). -/
def Obligations.HostReadReturnsRegisterOrFault : Prop :=
  ∀ (s : State) (a : Word) (size : Nat) (rest : List Move),
    s.cfg.Legal → s.schedule = .readRegister a size :: rest →
      (∀ r, size = 4 → a.toNat = regAddress s.cfg r →
        step s = .next { s with schedule := rest, response := some (.data (s.reg r)) }) ∧
      ((size ≠ 4 ∨ ∀ r, a.toNat ≠ regAddress s.cfg r) →
        step s = .next { s with
          schedule := rest, response := none, faults := .unmappedRead a size :: s.faults })

/-- The host's status read returns `busy` and `last_status` and changes nothing of the block (R43,
R198; log entry 9). -/
def Obligations.StatusReadReturnsFlags : Prop :=
  ∀ (s : State) (rest : List Move), s.schedule = .readStatus :: rest →
    step s = .next { s with
      schedule := rest, response := some (.status s.busy s.lastStatus) }

/-- R190: the ready-bit step of the clock environment, for each source and all legal parameters. It
is enabled when the ready bit differs from the enable bit; the ready bit then takes the value of the
enable bit, and nothing else changes. Every step but a reset that changes a ready bit is this step,
and leaves the ready bit equal to the enable bit. -/
def Obligations.EnvReadyCopiesEnableBit : Prop :=
  (∀ (s : State) (c : ClockSource) (rest : List Move),
    s.cfg.Legal → s.schedule = .envReady c :: rest → s.isReady c ≠ s.isOn c →
      ∃ t, step s = .next t ∧ t = { s with schedule := rest, cr := t.cr } ∧
        ∀ j, t.cr.getLsbD j =
          if j = rdyBit s.cfg c then s.cr.getLsbD (onBit s.cfg c) else s.cr.getLsbD j) ∧
  (∀ (s t : State) (c : ClockSource),
    s.cfg.Legal → resetIsNext s = false → step s = .next t → t.isReady c ≠ s.isReady c →
      s.schedule.head? = some (.envReady c) ∧ s.isReady c ≠ s.isOn c ∧ t.isReady c = t.isOn c)

/-- R191: the switch step of the clock environment. It is enabled when SWS differs from SW; SWS then
takes the value of SW in one step, and nothing else changes. Every step but a reset that changes SWS
is this step, and leaves SWS equal to SW. -/
def Obligations.EnvSwitchCopiesSelector : Prop :=
  (∀ (s : State) (rest : List Move), s.schedule = .envSwitch :: rest → s.sws ≠ s.sw →
    ∃ t, step s = .next t ∧ t = { s with schedule := rest, cfgr := t.cfgr } ∧
      t.sws = s.sw ∧ ∀ j, j ≠ 2 → j ≠ 3 → t.cfgr.getLsbD j = s.cfgr.getLsbD j) ∧
  (∀ s t : State, resetIsNext s = false → step s = .next t → t.sws ≠ s.sws →
    s.schedule.head? = some .envSwitch ∧ s.sws ≠ s.sw ∧ t.sws = t.sw)

/-- The model's choice for a scheduled environment move that the spec does not enable (log entry 2):
the move is used up and nothing else changes. -/
def Obligations.DisabledEnvironmentMovesChangeNothing : Prop :=
  (∀ (s : State) (c : ClockSource) (rest : List Move),
    s.schedule = .envReady c :: rest → s.isReady c = s.isOn c →
      step s = .next { s with schedule := rest }) ∧
  (∀ (s : State) (rest : List Move), s.schedule = .envSwitch :: rest → s.sws = s.sw →
    step s = .next { s with schedule := rest })

/-! ### Reset -/

/-- The controller after reset (R39). A command's meaning run in phase IDLE, where the latch holds no
value, answers a fault, which is the model's choice of where the read of the latch faults (log
entry 7). -/
def Obligations.ControllerResetValues : Prop :=
  (State.reset.phase = .idle ∧ State.reset.busy = false ∧ State.reset.lastStatus = none ∧
    State.reset.waitCount = 0 ∧ State.reset.cmd = none) ∧
  ∀ (i : Instr) (s : State), s.phase = .idle → exec i s = .fault .cmdNoValue

/-- The registers of `State.reset`, with the parameters at the suggestions of 00_scope.md R8 (log
entry 3) and the owned fields as R35, R36 and R37 decide them (log entry 5), with the drawn HSICAL
byte at CR[15:8] (log entry 4). -/
def Obligations.ResetRegisterValues : Prop :=
  State.reset.cr = 0x00000083#32 ||| ((Config.hsiCal 0).setWidth 32 <<< 8) ∧
  State.reset.pllcfgr = 0x24003010#32 ∧ State.reset.cfgr = 0#32 ∧
  State.reset.enr = { bus0 := 0x00100000#32, bus1 := 0#32, bus2 := 0#32, bus3 := 0#32 }

/-- Reset at any step, for all legal parameters: every owned field and the controller take their
reset values, the unowned bits those of the parameters, the recorded faults are kept, and a running
command is abandoned with no status (R210, R211, R212). The byte CR[15:8] is the next draw, where
its bits are unowned (the model's choice, log entry 4). What is not the block's stays: the
parameters, the moves to come and the host's last read result (the model's choice, log entries 1
and 9). -/
def Obligations.ResetMoveRestoresResetState : Prop :=
  ∀ (s : State) (rest : List Move), s.cfg.Legal → s.schedule = .reset :: rest →
    ∃ t, step s = .next t ∧
      (t.phase = .idle ∧ t.busy = false ∧ t.lastStatus = none ∧ t.waitCount = 0 ∧ t.cmd = none) ∧
      (t.faults = s.faults ∧ t.cfg = s.cfg ∧ t.schedule = rest ∧ t.response = s.response) ∧
      (∀ c, t.isOn c = decide (c = .hsi) ∧ t.isReady c = decide (c = .hsi)) ∧
      t.hseByp = false ∧ t.sw = 0 ∧ t.sws = 0 ∧
      (t.pllM.toNat = 16 ∧ t.pllN.toNat = 192 ∧ t.pllP = 0 ∧ t.pllSrc = false) ∧
      t.enr = s.cfg.enrReset ∧
      (∀ j, j < 32 → j ∉ crOwnedBits s.cfg → t.cr.getLsbD j =
        if 8 ≤ j ∧ j < 16 then (Config.hsiCal (s.resets + 1)).getLsbD (j - 8)
        else s.cfg.crResetOther.getLsbD j) ∧
      (∀ j, j < 32 → j ∉ cfgrOwnedBits → t.cfgr.getLsbD j = s.cfg.cfgrResetOther.getLsbD j) ∧
      (∀ j, j < 32 → j ∉ pllcfgrOwnedBits →
        t.pllcfgr.getLsbD j = s.cfg.pllcfgrResetOther.getLsbD j)

/-! ### The wait primitive -/

/-- What a wait phase does, in each command that has one (R105). The condition holds: `wait_count` is
cleared and the next phase or the end follows, with no register write. It does not: under k the poll
is counted, and the k-th ends HARDWARE_TIMEOUT; under NONE the controller holds, which the model
shows as a step that changes nothing where the rule says that there is no step (log entry 8). A step
that enters a wait phase sets `wait_count` to 0. -/
def Obligations.WaitPhasePolls : Prop :=
  (∀ (i : Instr) (s : State), waitCond i s = some true →
    exec i s = .next (if s.phase = .pllOffWait then { s with waitCount := 0, phase := .pllSrc }
      else endedWith s .ok)) ∧
  (∀ (i : Instr) (s : State), waitCond i s = some false → s.cfg.waitBound = none →
    exec i s = .next s) ∧
  (∀ (i : Instr) (s : State) (k : Nat), waitCond i s = some false → s.cfg.waitBound = some k →
    exec i s = .next (if s.waitCount + 1 = k then endedWith s .hardwareTimeout
      else { s with waitCount := s.waitCount + 1 })) ∧
  (∀ (i : Instr) (s t : State), exec i s = .next t → isWaitPhase t.phase = true →
    t.phase ≠ s.phase → t.waitCount = 0)

/-- With `WAIT_BOUND` = NONE, no environment move and a false condition, the controller holds for
ever (R106, R189): a run of any length that changes nothing. That a hold is a step that changes
nothing is the model's choice (log entry 8), and that the controller moves when no move is scheduled
is its choice too (log entry 1). -/
def Obligations.UnboundedWaitMayHoldForever : Prop :=
  ∀ (s : State) (i : Instr), s.schedule = [] → Runs s i → waitCond i s = some false →
    s.cfg.waitBound = none → ∀ n, stepN n s = .next s

/-! ### CLK_ENABLE and CLK_DISABLE -/

/-- CLK_SET writes the enable bit of the source and goes to CLK_WAIT; every other bit of CR and
every other field of the state stays (R120, R121, R26, R31). -/
def Obligations.ClkSetWritesEnableBit : Prop :=
  ∀ (s : State) (src : Nat) (c : ClockSource),
    s.cfg.Legal → s.phase = .clkSet → sourceOfId src = some c →
      (∃ t, exec (.clkEnable src) s = .next t ∧
        t = { s with cr := t.cr, phase := .clkWait, waitCount := 0 } ∧
        ∀ j, t.cr.getLsbD j = if j = onBit s.cfg c then true else s.cr.getLsbD j) ∧
      (∃ t, exec (.clkDisable src) s = .next t ∧
        t = { s with cr := t.cr, phase := .clkWait, waitCount := 0 } ∧
        ∀ j, t.cr.getLsbD j = if j = onBit s.cfg c then false else s.cr.getLsbD j)

/-- R122: an id outside 0..4 ends INVALID_PARAMETER before any write. -/
def Obligations.ClkRejectsUnknownSource : Prop :=
  ∀ (s : State) (src : Nat), s.phase = .clkSet → 4 < src →
    exec (.clkEnable src) s = .next (endedWith s .invalidParameter) ∧
    exec (.clkDisable src) s = .next (endedWith s .invalidParameter)

/-- CLK_WAIT ends OK when the ready bit is what the command asked for, and writes no register (R120,
R121). -/
def Obligations.ClkWaitEndsOk : Prop :=
  ∀ (s : State) (src : Nat) (c : ClockSource), s.phase = .clkWait → sourceOfId src = some c →
    (s.isReady c = true → exec (.clkEnable src) s = .next (endedWith s .ok)) ∧
    (s.isReady c = false → exec (.clkDisable src) s = .next (endedWith s .ok))

/-- The §8 vector W1 for every clock source that is off and not ready, and all legal parameters:
enabling the source and then disabling it, with the environment answering each, ends OK twice and
returns CR to what it was; no other register changes. -/
def Obligations.EnableThenDisableRestoresCr : Prop :=
  ∀ (s : State) (src : Nat) (c : ClockSource) (v w : Word) (rest : List Move),
    s.cfg.Legal → sourceOfId src = some c → s.isOn c = false → s.isReady c = false →
    decode v = .ok (.clkEnable src) → decode w = .ok (.clkDisable src) →
    s.phase = .decode → s.cmd = some v → s.busy = true →
    s.schedule = [.controller, .controller, .envReady c, .controller, .issue w, .controller,
      .controller, .envReady c, .controller] ++ rest →
    (∃ t, stepN 4 s = .next t ∧ t.lastStatus = some .ok ∧ t.isOn c = true ∧ t.isReady c = true) ∧
    stepN 9 s = .next { endedWith s .ok with schedule := rest }

/-- R124: in a step from a state with the invariant, when CLK_ENABLE ends OK both bits are 1 at the
ending step; when CLK_DISABLE ends OK both are 0. -/
def Obligations.ClkEndsOkOnlyWhenReady : Prop :=
  ∀ (s t : State) (src : Nat) (c : ClockSource),
    StateInv s → EndsCommand s t → t.lastStatus = some .ok → sourceOfId src = some c →
      (Runs s (.clkEnable src) → t.isOn c = true ∧ t.isReady c = true) ∧
      (Runs s (.clkDisable src) → t.isOn c = false ∧ t.isReady c = false)

/-! ### SYSCLK_SELECT -/

/-- SYS_SET: a value up to 3 is written to SW in one step, a larger one is rejected with no write
(R130, R131). -/
def Obligations.SysSetWritesSelector : Prop :=
  ∀ (s : State) (val : Nat), s.phase = .sysSet →
    (val ≤ 3 → ∃ t, exec (.sysclkSelect val) s = .next t ∧
      t = { s with cfgr := t.cfgr, phase := .sysWait, waitCount := 0 } ∧
      t.sw.toNat = val ∧ ∀ j, 2 ≤ j → t.cfgr.getLsbD j = s.cfgr.getLsbD j) ∧
    (3 < val → exec (.sysclkSelect val) s = .next (endedWith s .invalidParameter))

/-- SYS_WAIT ends OK when SWS is the requested value (R130). -/
def Obligations.SysWaitEndsOk : Prop :=
  ∀ (s : State) (val : Nat), s.phase = .sysWait → s.sws.toNat = val →
    exec (.sysclkSelect val) s = .next (endedWith s .ok)

/-- R132: in a step from a state with the invariant, when SYSCLK_SELECT v ends OK, SW = v and SWS =
v at the ending step. -/
def Obligations.SysclkEndsOkOnlyWhenSwitched : Prop :=
  ∀ (s t : State) (val : Nat),
    StateInv s → EndsCommand s t → t.lastStatus = some .ok → Runs s (.sysclkSelect val) →
      t.sw.toNat = val ∧ t.sws.toNat = val

/-! ### HSE_BYPASS -/

/-- R141: HSE_BYPASS writes HSEBYP in every state of HSEON, and ends OK; no other bit changes. A
value above 1 is rejected with no write (R140). -/
def Obligations.HseBypassWritesBit : Prop :=
  ∀ (s : State) (val : Nat), s.phase = .bypSet →
    (val ≤ 1 → ∃ t, exec (.hseBypass val) s = .next t ∧
      t = { endedWith s .ok with cr := t.cr } ∧
      ∀ j, t.cr.getLsbD j = if j = 18 then decide (val = 1) else s.cr.getLsbD j) ∧
    (1 < val → exec (.hseBypass val) s = .next (endedWith s .invalidParameter))

/-! ### PLL_CONFIG -/

/-- Steps 1 and 7: PLL_OFF clears PLLON and PLL_ON sets it, whatever the operands; no other bit
changes (R150, R151, R157). -/
def Obligations.PllEnableBitSteps : Prop :=
  ∀ (s : State) (src m n p : Nat),
    (s.phase = .pllOff → ∃ t, exec (.pllConfig src m n p) s = .next t ∧
      t = { s with cr := t.cr, phase := .pllOffWait, waitCount := 0 } ∧
      ∀ j, t.cr.getLsbD j = if j = 24 then false else s.cr.getLsbD j) ∧
    (s.phase = .pllOn → ∃ t, exec (.pllConfig src m n p) s = .next t ∧
      t = { s with cr := t.cr, phase := .pllOnWait, waitCount := 0 } ∧
      ∀ j, t.cr.getLsbD j = if j = 24 then true else s.cr.getLsbD j)

/-- PLL_OFF_WAIT goes on when PLLRDY = 0, and PLL_ON_WAIT ends OK when PLLRDY = 1; neither writes a
register (R150, R151, R157). -/
def Obligations.PllWaitsPass : Prop :=
  ∀ (s : State) (src m n p : Nat),
    (s.phase = .pllOffWait → s.cr.getLsbD 25 = false →
      exec (.pllConfig src m n p) s = .next { s with waitCount := 0, phase := .pllSrc }) ∧
    (s.phase = .pllOnWait → s.cr.getLsbD 25 = true →
      exec (.pllConfig src m n p) s = .next (endedWith s .ok))

/-- R152: step 2. Source 0 writes PLLSRC = 0, source 1 writes PLLSRC = 1, every other source is
rejected with PLLSRC not written; in a state with the invariant the PLL is then disabled. -/
def Obligations.PllSourceStep : Prop :=
  ∀ (s : State) (src m n p : Nat), s.phase = .pllSrc →
    (src ≤ 1 → ∃ t, exec (.pllConfig src m n p) s = .next t ∧
      t = { s with pllcfgr := t.pllcfgr, phase := .pllChkN } ∧
      ∀ j, t.pllcfgr.getLsbD j = if j = 22 then decide (src = 1) else s.pllcfgr.getLsbD j) ∧
    (1 < src → exec (.pllConfig src m n p) s = .next (endedWith s .invalidParameter)) ∧
    (StateInv s → Runs s (.pllConfig src m n p) → s.isOn .pll = false)

/-- R153 and R154: steps 3 and 4, with both bounds inclusive. The checks write nothing. When step 3
fails in a state with the invariant, PLLON = 0 and PLLSRC has been written. -/
def Obligations.PllRangeChecks : Prop :=
  ∀ (s : State) (src m n p : Nat),
    (s.phase = .pllChkN →
      exec (.pllConfig src m n p) s =
        .next (if 50 ≤ n ∧ n ≤ 432 then { s with phase := .pllChkM }
          else endedWith s .invalidParameter) ∧
      (StateInv s → Runs s (.pllConfig src m n p) →
        s.isOn .pll = false ∧ s.pllSrc = decide (src = 1))) ∧
    (s.phase = .pllChkM →
      exec (.pllConfig src m n p) s =
        .next (if 2 ≤ m ∧ m ≤ 63 then { s with phase := .pllMn }
          else endedWith s .invalidParameter))

/-- R155: step 5 writes M and N in one step; bit 15 and every bit above 14 are unchanged. After
steps 3 and 4 nothing is truncated. -/
def Obligations.PllFactorsStep : Prop :=
  ∀ (s : State) (src m n p : Nat), s.phase = .pllMn → n ≤ 432 → m ≤ 63 →
    ∃ t, exec (.pllConfig src m n p) s = .next t ∧
      t = { s with pllcfgr := t.pllcfgr, phase := .pllP } ∧
      t.pllM.toNat = m ∧ t.pllN.toNat = n ∧
      ∀ j, 15 ≤ j → t.pllcfgr.getLsbD j = s.pllcfgr.getLsbD j

/-- R156: step 6. The divider d is M under `FROM_M` and P under `FROM_P`. A d in {2, 4, 6, 8} writes
its code d/2 - 1 into both bits of PLLP and nothing else; any other d is rejected. In a state with
the invariant M and N have then already been written. -/
def Obligations.PllCodeStep : Prop :=
  ∀ (s : State) (src m n p d : Nat), s.phase = .pllP →
    d = (if s.cfg.pSource = .fromM then m else p) →
    (d ∈ [2, 4, 6, 8] → ∃ t, exec (.pllConfig src m n p) s = .next t ∧
      t = { s with pllcfgr := t.pllcfgr, phase := .pllOn } ∧
      t.pllP.toNat = d / 2 - 1 ∧
      ∀ j, j ≠ 16 → j ≠ 17 → t.pllcfgr.getLsbD j = s.pllcfgr.getLsbD j) ∧
    (d ∉ [2, 4, 6, 8] → exec (.pllConfig src m n p) s = .next (endedWith s .invalidParameter)) ∧
    (StateInv s → Runs s (.pllConfig src m n p) → s.pllM.toNat = m ∧ s.pllN.toNat = n)

/-- The whole of PLL_CONFIG on legal operands (R150, R160, R112), from DECODE and in every state of
the PLL: ten controller steps, with the environment's answer to step 1 where the PLL starts locked
and its answer to step 7, end it OK, with the PLL enabled, locked and configured, and with every
other bit and field as it was. -/
def Obligations.PllConfigSucceeds : Prop :=
  ∀ (s : State) (w : Word) (src m n p d : Nat) (rest : List Move),
    s.cfg.Legal → s.phase = .decode → s.cmd = some w → decode w = .ok (.pllConfig src m n p) →
    s.schedule = List.replicate 2 .controller ++ pllUnlocks s ++
      List.replicate 7 .controller ++ [.envReady .pll, .controller] ++ rest →
    src ≤ 1 → FactorsLegal m n → d = (if s.cfg.pSource = .fromM then m else p) →
    d ∈ [2, 4, 6, 8] →
    ∃ t, stepN (11 + (pllUnlocks s).length) s = .next t ∧
      t = { endedWith s .ok with cr := t.cr, pllcfgr := t.pllcfgr, schedule := rest } ∧
      (∀ j, t.cr.getLsbD j = if j = 24 ∨ j = 25 then true else s.cr.getLsbD j) ∧
      (t.pllSrc = decide (src = 1) ∧ t.pllM.toNat = m ∧ t.pllN.toNat = n ∧
        t.pllP.toNat = d / 2 - 1) ∧
      ∀ j, 15 ≤ j → j ≠ 16 → j ≠ 17 → j ≠ 22 → t.pllcfgr.getLsbD j = s.pllcfgr.getLsbD j

/-- What PLL_CONFIG leaves behind when an operand check rejects it (R159, the rows of steps 2, 3, 4
and 6), from DECODE and in every state of the PLL: with controller moves and the environment's
answer to step 1 where the PLL starts locked, it ends INVALID_PARAMETER with PLLON = 0 and
PLLRDY = 0, and PLLSRC, PLLM and PLLN, PLLP are old or new as the table says. The first failing
check decides (R184). -/
def Obligations.PllConfigLeftovers : Prop :=
  ∀ (s : State) (w : Word) (src m n p : Nat),
    s.cfg.Legal → s.phase = .decode → s.cmd = some w → decode w = .ok (.pllConfig src m n p) →
    s.schedule = (if s.isReady .pll then [.controller, .controller, .envReady .pll] else []) →
    (1 < src → ∃ t, stepN (4 + (pllUnlocks s).length) s = .next t ∧
      t = { endedWith s .invalidParameter with cr := t.cr, schedule := [] } ∧
      ∀ j, t.cr.getLsbD j = if j = 24 ∨ j = 25 then false else s.cr.getLsbD j) ∧
    (src ≤ 1 → ¬ (50 ≤ n ∧ n ≤ 432) →
      ∃ t, stepN (5 + (pllUnlocks s).length) s = .next t ∧
      t = { endedWith s .invalidParameter with
        cr := t.cr, pllcfgr := t.pllcfgr, schedule := [] } ∧
      (∀ j, t.cr.getLsbD j = if j = 24 ∨ j = 25 then false else s.cr.getLsbD j) ∧
      ∀ j, t.pllcfgr.getLsbD j = if j = 22 then decide (src = 1) else s.pllcfgr.getLsbD j) ∧
    (src ≤ 1 → 50 ≤ n → n ≤ 432 → ¬ (2 ≤ m ∧ m ≤ 63) →
      ∃ t, stepN (6 + (pllUnlocks s).length) s = .next t ∧
      t = { endedWith s .invalidParameter with
        cr := t.cr, pllcfgr := t.pllcfgr, schedule := [] } ∧
      (∀ j, t.cr.getLsbD j = if j = 24 ∨ j = 25 then false else s.cr.getLsbD j) ∧
      ∀ j, t.pllcfgr.getLsbD j = if j = 22 then decide (src = 1) else s.pllcfgr.getLsbD j) ∧
    (src ≤ 1 → FactorsLegal m n →
      (if s.cfg.pSource = .fromM then m else p) ∉ [2, 4, 6, 8] →
      ∃ t, stepN (8 + (pllUnlocks s).length) s = .next t ∧
      t = { endedWith s .invalidParameter with
        cr := t.cr, pllcfgr := t.pllcfgr, schedule := [] } ∧
      (∀ j, t.cr.getLsbD j = if j = 24 ∨ j = 25 then false else s.cr.getLsbD j) ∧
      (t.pllSrc = decide (src = 1) ∧ t.pllM.toNat = m ∧ t.pllN.toNat = n) ∧
      ∀ j, 15 ≤ j → j ≠ 22 → t.pllcfgr.getLsbD j = s.pllcfgr.getLsbD j)

/-- What a timeout of PLL_CONFIG leaves behind (R159, the rows of the step 1 and step 7 waits): with
`WAIT_BOUND` = k and no environment move, k failed polls end HARDWARE_TIMEOUT, with PLLON = 0 and
PLLCFGR old after step 1, and PLLON = 1 and the fields of PLLCFGR new after step 7. -/
def Obligations.PllTimeoutLeftovers : Prop :=
  ∀ (s : State) (w : Word) (src m n p d k : Nat),
    s.cfg.Legal → s.phase = .decode → s.cmd = some w → decode w = .ok (.pllConfig src m n p) →
    s.schedule = [] → s.cfg.waitBound = some k →
    (s.isReady .pll = true → ∃ t, stepN (2 + k) s = .next t ∧
      t = { endedWith s .hardwareTimeout with cr := t.cr } ∧
      ∀ j, t.cr.getLsbD j = if j = 24 then false else s.cr.getLsbD j) ∧
    (s.isReady .pll = false → src ≤ 1 → FactorsLegal m n →
      d = (if s.cfg.pSource = .fromM then m else p) → d ∈ [2, 4, 6, 8] →
      ∃ t, stepN (9 + k) s = .next t ∧
      t = { endedWith s .hardwareTimeout with cr := t.cr, pllcfgr := t.pllcfgr } ∧
      (∀ j, t.cr.getLsbD j = if j = 24 then true else s.cr.getLsbD j) ∧
      (t.pllSrc = decide (src = 1) ∧ t.pllM.toNat = m ∧ t.pllN.toNat = n ∧
        t.pllP.toNat = d / 2 - 1) ∧
      ∀ j, 15 ≤ j → j ≠ 16 → j ≠ 17 → j ≠ 22 → t.pllcfgr.getLsbD j = s.pllcfgr.getLsbD j)

/-- R160: at the step, from a state with the invariant, where PLL_CONFIG ends OK, the PLL is
enabled, locked, and configured per the operands. -/
def Obligations.PllEndsOkOnlyWhenConfigured : Prop :=
  ∀ (s t : State) (src m n p : Nat),
    StateInv s → EndsCommand s t → t.lastStatus = some .ok → Runs s (.pllConfig src m n p) →
      t.isOn .pll = true ∧ t.isReady .pll = true ∧
      src ≤ 1 ∧ t.pllSrc = decide (src = 1) ∧ t.pllM.toNat = m ∧ t.pllN.toNat = n ∧
      dividerOfCode t.pllP = (if s.cfg.pSource = .fromM then m else p)

/-- From a state with the invariant, every step but a reset that changes PLLCFGR is a step of
PLL_CONFIG, taken while the PLL is disabled and confirmed disabled (R161, R216). -/
def Obligations.PllcfgrRewrittenOnlyWhileOff : Prop :=
  ∀ s t : State, StateInv s → resetIsNext s = false → step s = .next t → t.pllcfgr ≠ s.pllcfgr →
    (∃ src m n p, Runs s (.pllConfig src m n p)) ∧ PllIsOff s ∧ PllIsOff t

/-- R162: in a state with the invariant, under `FROM_M` a PLL_CONFIG ends OK only if M is in {2, 4,
6, 8}; with any other M that passes step 4 it is rejected at step 6, after M and N have been
written, with the PLL disabled. -/
def Obligations.PllFromMNeedsDividerM : Prop :=
  ∀ (s t : State) (src m n p : Nat),
    StateInv s → s.cfg.pSource = .fromM → Runs s (.pllConfig src m n p) →
      (EndsCommand s t → t.lastStatus = some .ok → m ∈ [2, 4, 6, 8]) ∧
      (s.phase = .pllP → m ∉ [2, 4, 6, 8] →
        exec (.pllConfig src m n p) s = .next (endedWith s .invalidParameter) ∧
        s.pllM.toNat = m ∧ s.pllN.toNat = n ∧ s.isOn .pll = false)

/-! ### PERIPH_ENABLE and PERIPH_DISABLE -/

/-- R173, R170, R171: a position up to 31 sets or clears exactly that gate and ends OK; a larger one
is rejected with no write. -/
def Obligations.PeriphWritesOneGate : Prop :=
  ∀ (s : State) (bus : Bus) (pos : Nat), s.phase = .gateSet →
    (pos ≤ 31 →
      (∃ t, exec (.periphEnable bus pos) s = .next t ∧
        t = { endedWith s .ok with enr := t.enr } ∧
        ∀ b i, gate t b i = if b = bus ∧ i = pos then true else gate s b i) ∧
      (∃ t, exec (.periphDisable bus pos) s = .next t ∧
        t = { endedWith s .ok with enr := t.enr } ∧
        ∀ b i, gate t b i = if b = bus ∧ i = pos then false else gate s b i)) ∧
    (31 < pos →
      exec (.periphEnable bus pos) s = .next (endedWith s .invalidParameter) ∧
      exec (.periphDisable bus pos) s = .next (endedWith s .invalidParameter))

/-- R172: the gate output `gate[b][i]` is the bit i of ENR[b]. A gate changes only in the step of a
PERIPH_ENABLE or PERIPH_DISABLE of that bus and position, to the value the command asks for, or at
reset; so a request reaches one gate. -/
def Obligations.GateChangesOnlyByItsCommand : Prop :=
  (∀ (s : State) (i : Nat), gate s .bus0 i = s.enr.bus0.getLsbD i ∧
    gate s .bus1 i = s.enr.bus1.getLsbD i ∧ gate s .bus2 i = s.enr.bus2.getLsbD i ∧
    gate s .bus3 i = s.enr.bus3.getLsbD i) ∧
  ∀ (s t : State) (b : Bus) (i : Nat), step s = .next t → gate t b i ≠ gate s b i →
    resetIsNext s = true ∨
    (s.phase = .gateSet ∧ Runs s (.periphEnable b i) ∧ gate t b i = true) ∨
    (s.phase = .gateSet ∧ Runs s (.periphDisable b i) ∧ gate t b i = false)

/-! ### The whole machine -/

/-- R34: for legal parameters, which command changes which owned field; no command changes any other
bit. -/
def Obligations.CommandsWriteOnlyTheirFields : Prop :=
  ∀ (i : Instr) (s t : State), s.cfg.Legal → exec i s = .next t → WritesOnlyItsFields i s t

/-- For legal parameters, no step but a reset changes an unowned bit of CR, CFGR or PLLCFGR (R30).
-/
def Obligations.UnownedBitsNeverChange : Prop :=
  ∀ s t : State, s.cfg.Legal → resetIsNext s = false → step s = .next t →
    (∀ j, j ∉ crOwnedBits s.cfg → t.cr.getLsbD j = s.cr.getLsbD j) ∧
    (∀ j, j ∉ cfgrOwnedBits → t.cfgr.getLsbD j = s.cfgr.getLsbD j) ∧
    (∀ j, j ∉ pllcfgrOwnedBits → t.pllcfgr.getLsbD j = s.pllcfgr.getLsbD j)

/-- For legal parameters, a controller step never changes a ready bit or SWS (R33, R123). -/
def Obligations.ControllerNeverWritesStatusBits : Prop :=
  ∀ s t : State, s.cfg.Legal → controllerStep s = .next t →
    (∀ c, t.isReady c = s.isReady c) ∧ t.sws = s.sws

/-- From a state with the invariant and but for a reset, the latch of a running command stays
unchanged until the command ends, and then holds no value (R42, R74). -/
def Obligations.LatchStaysUntilTheEnd : Prop :=
  ∀ s t : State, StateInv s → s.busy = true → resetIsNext s = false → step s = .next t →
    (t.busy = true ∧ t.cmd = s.cmd) ∨ (t.busy = false ∧ t.cmd = none)

/-- From a state with the invariant, `last_status` changes only when a command ends or at reset
(R43). -/
def Obligations.LastStatusChangesOnlyAtTheEnd : Prop :=
  ∀ s t : State, StateInv s → step s = .next t → t.lastStatus ≠ s.lastStatus →
    resetIsNext s = true ∨ EndsCommand s t

/-- R181: the causes of each status with which a command ends, from a state with the invariant. An
end that is not OK changes nothing but the controller's own state: it writes no register in that
step and records nothing else. -/
def Obligations.EveryStatusHasItsCause : Prop :=
  ∀ s t : State, StateInv s → EndsCommand s t →
    (t.lastStatus = some .ok ∧ ∃ i, Runs s i ∧ ¬ FailsCheck i s ∧ waitCond i s ≠ some false) ∨
    (t = { endedWith s .illegalCommand with schedule := t.schedule } ∧ s.phase = .decode ∧
      ∃ w e, s.cmd = some w ∧ decode w = .error e) ∨
    (t = { endedWith s .invalidParameter with schedule := t.schedule } ∧
      ∃ i, Runs s i ∧ FailsCheck i s) ∨
    (t = { endedWith s .hardwareTimeout with schedule := t.schedule } ∧
      ∃ i k, Runs s i ∧ waitCond i s = some false ∧ s.cfg.waitBound = some k ∧
        s.waitCount + 1 = k)

/-- The parameters never change, and a recorded model fault is kept for the rest of the run, reset
included (R8, R188, R210; log entry 6). -/
def Obligations.ParametersAndFaultsAreKept : Prop :=
  ∀ (n : Nat) (s t : State), stepN n s = .next t → t.cfg = s.cfg ∧ s.faults <:+ t.faults

/-- A command with no wait phase ends in two controller steps, OK or INVALID_PARAMETER (R110, R112).
-/
def Obligations.CommandsWithoutWaitEnd : Prop :=
  ∀ (s : State) (w : Word) (i : Instr), s.schedule = [] → s.phase = .decode → s.cmd = some w →
    decode w = .ok i → (firstPhase i = .bypSet ∨ firstPhase i = .gateSet) →
    ∃ t, stepN 2 s = .next t ∧ t.busy = false ∧
      (t.lastStatus = some .ok ∨ t.lastStatus = some .invalidParameter)

/-- R112 for the commands with one wait: on legal operands, with controller moves only and with the
wait satisfied on its first poll, CLK_ENABLE, CLK_DISABLE and SYSCLK_SELECT stand in their wait
phase after two steps, and the third ends them OK with the field written and nothing else changed.
-/
def Obligations.WaitingCommandsTakeThreeSteps : Prop :=
  ∀ (s : State) (w : Word), s.cfg.Legal → s.schedule = [] → s.phase = .decode → s.cmd = some w →
    (∀ src c, decode w = .ok (.clkEnable src) → sourceOfId src = some c → s.isReady c = true →
      (∃ u, stepN 2 s = .next u ∧ u.phase = .clkWait) ∧
      ∃ t, stepN 3 s = .next t ∧ t = { endedWith s .ok with cr := t.cr } ∧
        ∀ j, t.cr.getLsbD j = if j = onBit s.cfg c then true else s.cr.getLsbD j) ∧
    (∀ src c, decode w = .ok (.clkDisable src) → sourceOfId src = some c → s.isReady c = false →
      (∃ u, stepN 2 s = .next u ∧ u.phase = .clkWait) ∧
      ∃ t, stepN 3 s = .next t ∧ t = { endedWith s .ok with cr := t.cr } ∧
        ∀ j, t.cr.getLsbD j = if j = onBit s.cfg c then false else s.cr.getLsbD j) ∧
    (∀ val, decode w = .ok (.sysclkSelect val) → val ≤ 3 → s.sws.toNat = val →
      (∃ u, stepN 2 s = .next u ∧ u.phase = .sysWait) ∧
      ∃ t, stepN 3 s = .next t ∧ t = { endedWith s .ok with cfgr := t.cfgr } ∧
        t.sw.toNat = val ∧ ∀ j, 2 ≤ j → t.cfgr.getLsbD j = s.cfgr.getLsbD j)

/-- From a state with the invariant and with `WAIT_BOUND` = k, the running command ends, with no
environment move at all, in at most k + 9 controller steps: at most k polls, and the nine steps of
PLL_CONFIG before its last wait (R105, R110, R112). -/
def Obligations.BoundedWaitsEnd : Prop :=
  ∀ (s : State) (k : Nat), StateInv s → s.busy = true → s.schedule = [] →
    s.cfg.waitBound = some k → ∃ n t, n ≤ k + 9 ∧ stepN n s = .next t ∧ t.busy = false

/-- The invariant holds after reset, with the parameters of `State.reset` (log entry 3). -/
def Obligations.InvariantHoldsAtReset : Prop := StateInv State.reset

/-- Every step keeps the invariant: legal parameters, `busy` and the latch in step with the phase,
`wait_count` in its range, and in each phase what the command has written so far (R39, R40, R42,
R44, R161). -/
def Obligations.InvariantKeptByStep : Prop :=
  ∀ s t : State, StateInv s → step s = .next t → StateInv t

/-- From a state with the invariant, a step never stops with a fault and is never refused: an error
is a status, never an abort, and no rule reads the latch while it holds no value (R108, R182). It
rests on the model's choices that an unmapped read is recorded and the run goes on (log entry 6) and
that a held wait is a step that changes nothing (log entry 8). -/
def Obligations.StepNeverStops : Prop :=
  ∀ s : State, StateInv s → ∃ t, step s = .next t

/-- R40: `busy = 1` exactly when `phase ≠ IDLE`, in every state that any schedule reaches from a
reset with any legal parameters. -/
def Obligations.BusyExactlyWhenNotIdle : Prop :=
  ∀ (n : Nat) (s t : State), s.cfg.Legal → stepN n s.assertReset = .next t →
    (t.busy = true ↔ t.phase ≠ .idle)
end

