-- ==== Sys2Proof/Laws/State.lean ====
section
/-! SUPPORT. One lemma for each field of State and each update of the model, all true by `rfl`, so
that no proof unfolds a record update. -/

namespace Sys2Proof.Machine

/-! ### `finish` -/

@[simp] theorem finish_cr (s : State) (x : Status) : (s.finish x).cr = s.cr := rfl
@[simp] theorem finish_cfgr (s : State) (x : Status) : (s.finish x).cfgr = s.cfgr := rfl
@[simp] theorem finish_pllcfgr (s : State) (x : Status) : (s.finish x).pllcfgr = s.pllcfgr := rfl
@[simp] theorem finish_enr (s : State) (x : Status) : (s.finish x).enr = s.enr := rfl
@[simp] theorem finish_phase (s : State) (x : Status) : (s.finish x).phase = .idle := rfl
@[simp] theorem finish_cmd (s : State) (x : Status) : (s.finish x).cmd = none := rfl
@[simp] theorem finish_busy (s : State) (x : Status) : (s.finish x).busy = false := rfl
@[simp] theorem finish_lastStatus (s : State) (x : Status) : (s.finish x).lastStatus = some x := rfl
@[simp] theorem finish_waitCount (s : State) (x : Status) : (s.finish x).waitCount = 0 := rfl
@[simp] theorem finish_faults (s : State) (x : Status) : (s.finish x).faults = s.faults := rfl
@[simp] theorem finish_cfg (s : State) (x : Status) : (s.finish x).cfg = s.cfg := rfl
@[simp] theorem finish_schedule (s : State) (x : Status) : (s.finish x).schedule = s.schedule := rfl
@[simp] theorem finish_response (s : State) (x : Status) : (s.finish x).response = s.response := rfl
@[simp] theorem finish_resets (s : State) (x : Status) : (s.finish x).resets = s.resets := rfl
@[simp] theorem finish_isOn (s : State) (x : Status) (c : ClockSource) : (s.finish x).isOn c = s.isOn c := rfl
@[simp] theorem finish_isReady (s : State) (x : Status) (c : ClockSource) : (s.finish x).isReady c = s.isReady c := rfl
@[simp] theorem finish_hseByp (s : State) (x : Status) : (s.finish x).hseByp = s.hseByp := rfl
@[simp] theorem finish_sw (s : State) (x : Status) : (s.finish x).sw = s.sw := rfl
@[simp] theorem finish_sws (s : State) (x : Status) : (s.finish x).sws = s.sws := rfl
@[simp] theorem finish_pllM (s : State) (x : Status) : (s.finish x).pllM = s.pllM := rfl
@[simp] theorem finish_pllN (s : State) (x : Status) : (s.finish x).pllN = s.pllN := rfl
@[simp] theorem finish_pllP (s : State) (x : Status) : (s.finish x).pllP = s.pllP := rfl
@[simp] theorem finish_pllSrc (s : State) (x : Status) : (s.finish x).pllSrc = s.pllSrc := rfl

/-! ### `raise` -/

@[simp] theorem raise_cr (s : State) (x : Status) : (s.raise x).cr = s.cr := rfl
@[simp] theorem raise_cfgr (s : State) (x : Status) : (s.raise x).cfgr = s.cfgr := rfl
@[simp] theorem raise_pllcfgr (s : State) (x : Status) : (s.raise x).pllcfgr = s.pllcfgr := rfl
@[simp] theorem raise_enr (s : State) (x : Status) : (s.raise x).enr = s.enr := rfl
@[simp] theorem raise_phase (s : State) (x : Status) : (s.raise x).phase = .idle := rfl
@[simp] theorem raise_cmd (s : State) (x : Status) : (s.raise x).cmd = none := rfl
@[simp] theorem raise_busy (s : State) (x : Status) : (s.raise x).busy = false := rfl
@[simp] theorem raise_lastStatus (s : State) (x : Status) : (s.raise x).lastStatus = some x := rfl
@[simp] theorem raise_waitCount (s : State) (x : Status) : (s.raise x).waitCount = 0 := rfl
@[simp] theorem raise_faults (s : State) (x : Status) : (s.raise x).faults = s.faults := rfl
@[simp] theorem raise_cfg (s : State) (x : Status) : (s.raise x).cfg = s.cfg := rfl
@[simp] theorem raise_schedule (s : State) (x : Status) : (s.raise x).schedule = s.schedule := rfl
@[simp] theorem raise_response (s : State) (x : Status) : (s.raise x).response = s.response := rfl
@[simp] theorem raise_resets (s : State) (x : Status) : (s.raise x).resets = s.resets := rfl
@[simp] theorem raise_isOn (s : State) (x : Status) (c : ClockSource) : (s.raise x).isOn c = s.isOn c := rfl
@[simp] theorem raise_isReady (s : State) (x : Status) (c : ClockSource) : (s.raise x).isReady c = s.isReady c := rfl
@[simp] theorem raise_hseByp (s : State) (x : Status) : (s.raise x).hseByp = s.hseByp := rfl
@[simp] theorem raise_sw (s : State) (x : Status) : (s.raise x).sw = s.sw := rfl
@[simp] theorem raise_sws (s : State) (x : Status) : (s.raise x).sws = s.sws := rfl
@[simp] theorem raise_pllM (s : State) (x : Status) : (s.raise x).pllM = s.pllM := rfl
@[simp] theorem raise_pllN (s : State) (x : Status) : (s.raise x).pllN = s.pllN := rfl
@[simp] theorem raise_pllP (s : State) (x : Status) : (s.raise x).pllP = s.pllP := rfl
@[simp] theorem raise_pllSrc (s : State) (x : Status) : (s.raise x).pllSrc = s.pllSrc := rfl

/-! ### `goto` -/

@[simp] theorem goto_cr (s : State) (p : Phase) : (s.goto p).cr = s.cr := rfl
@[simp] theorem goto_cfgr (s : State) (p : Phase) : (s.goto p).cfgr = s.cfgr := rfl
@[simp] theorem goto_pllcfgr (s : State) (p : Phase) : (s.goto p).pllcfgr = s.pllcfgr := rfl
@[simp] theorem goto_enr (s : State) (p : Phase) : (s.goto p).enr = s.enr := rfl
@[simp] theorem goto_phase (s : State) (p : Phase) : (s.goto p).phase = p := rfl
@[simp] theorem goto_cmd (s : State) (p : Phase) : (s.goto p).cmd = s.cmd := rfl
@[simp] theorem goto_busy (s : State) (p : Phase) : (s.goto p).busy = s.busy := rfl
@[simp] theorem goto_lastStatus (s : State) (p : Phase) : (s.goto p).lastStatus = s.lastStatus := rfl
@[simp] theorem goto_waitCount (s : State) (p : Phase) : (s.goto p).waitCount = s.waitCount := rfl
@[simp] theorem goto_faults (s : State) (p : Phase) : (s.goto p).faults = s.faults := rfl
@[simp] theorem goto_cfg (s : State) (p : Phase) : (s.goto p).cfg = s.cfg := rfl
@[simp] theorem goto_schedule (s : State) (p : Phase) : (s.goto p).schedule = s.schedule := rfl
@[simp] theorem goto_response (s : State) (p : Phase) : (s.goto p).response = s.response := rfl
@[simp] theorem goto_resets (s : State) (p : Phase) : (s.goto p).resets = s.resets := rfl
@[simp] theorem goto_isOn (s : State) (p : Phase) (c : ClockSource) : (s.goto p).isOn c = s.isOn c := rfl
@[simp] theorem goto_isReady (s : State) (p : Phase) (c : ClockSource) : (s.goto p).isReady c = s.isReady c := rfl
@[simp] theorem goto_hseByp (s : State) (p : Phase) : (s.goto p).hseByp = s.hseByp := rfl
@[simp] theorem goto_sw (s : State) (p : Phase) : (s.goto p).sw = s.sw := rfl
@[simp] theorem goto_sws (s : State) (p : Phase) : (s.goto p).sws = s.sws := rfl
@[simp] theorem goto_pllM (s : State) (p : Phase) : (s.goto p).pllM = s.pllM := rfl
@[simp] theorem goto_pllN (s : State) (p : Phase) : (s.goto p).pllN = s.pllN := rfl
@[simp] theorem goto_pllP (s : State) (p : Phase) : (s.goto p).pllP = s.pllP := rfl
@[simp] theorem goto_pllSrc (s : State) (p : Phase) : (s.goto p).pllSrc = s.pllSrc := rfl

/-! ### `enterWait` -/

@[simp] theorem enterWait_cr (s : State) (p : Phase) : (s.enterWait p).cr = s.cr := rfl
@[simp] theorem enterWait_cfgr (s : State) (p : Phase) : (s.enterWait p).cfgr = s.cfgr := rfl
@[simp] theorem enterWait_pllcfgr (s : State) (p : Phase) : (s.enterWait p).pllcfgr = s.pllcfgr := rfl
@[simp] theorem enterWait_enr (s : State) (p : Phase) : (s.enterWait p).enr = s.enr := rfl
@[simp] theorem enterWait_phase (s : State) (p : Phase) : (s.enterWait p).phase = p := rfl
@[simp] theorem enterWait_cmd (s : State) (p : Phase) : (s.enterWait p).cmd = s.cmd := rfl
@[simp] theorem enterWait_busy (s : State) (p : Phase) : (s.enterWait p).busy = s.busy := rfl
@[simp] theorem enterWait_lastStatus (s : State) (p : Phase) : (s.enterWait p).lastStatus = s.lastStatus := rfl
@[simp] theorem enterWait_waitCount (s : State) (p : Phase) : (s.enterWait p).waitCount = 0 := rfl
@[simp] theorem enterWait_faults (s : State) (p : Phase) : (s.enterWait p).faults = s.faults := rfl
@[simp] theorem enterWait_cfg (s : State) (p : Phase) : (s.enterWait p).cfg = s.cfg := rfl
@[simp] theorem enterWait_schedule (s : State) (p : Phase) : (s.enterWait p).schedule = s.schedule := rfl
@[simp] theorem enterWait_response (s : State) (p : Phase) : (s.enterWait p).response = s.response := rfl
@[simp] theorem enterWait_resets (s : State) (p : Phase) : (s.enterWait p).resets = s.resets := rfl
@[simp] theorem enterWait_isOn (s : State) (p : Phase) (c : ClockSource) : (s.enterWait p).isOn c = s.isOn c := rfl
@[simp] theorem enterWait_isReady (s : State) (p : Phase) (c : ClockSource) : (s.enterWait p).isReady c = s.isReady c := rfl
@[simp] theorem enterWait_hseByp (s : State) (p : Phase) : (s.enterWait p).hseByp = s.hseByp := rfl
@[simp] theorem enterWait_sw (s : State) (p : Phase) : (s.enterWait p).sw = s.sw := rfl
@[simp] theorem enterWait_sws (s : State) (p : Phase) : (s.enterWait p).sws = s.sws := rfl
@[simp] theorem enterWait_pllM (s : State) (p : Phase) : (s.enterWait p).pllM = s.pllM := rfl
@[simp] theorem enterWait_pllN (s : State) (p : Phase) : (s.enterWait p).pllN = s.pllN := rfl
@[simp] theorem enterWait_pllP (s : State) (p : Phase) : (s.enterWait p).pllP = s.pllP := rfl
@[simp] theorem enterWait_pllSrc (s : State) (p : Phase) : (s.enterWait p).pllSrc = s.pllSrc := rfl

/-! ### `issueWord` -/

@[simp] theorem issueWord_cr (s : State) (w : Word) : (s.issueWord w).cr = s.cr := rfl
@[simp] theorem issueWord_cfgr (s : State) (w : Word) : (s.issueWord w).cfgr = s.cfgr := rfl
@[simp] theorem issueWord_pllcfgr (s : State) (w : Word) : (s.issueWord w).pllcfgr = s.pllcfgr := rfl
@[simp] theorem issueWord_enr (s : State) (w : Word) : (s.issueWord w).enr = s.enr := rfl
@[simp] theorem issueWord_phase (s : State) (w : Word) : (s.issueWord w).phase = .decode := rfl
@[simp] theorem issueWord_cmd (s : State) (w : Word) : (s.issueWord w).cmd = some w := rfl
@[simp] theorem issueWord_busy (s : State) (w : Word) : (s.issueWord w).busy = true := rfl
@[simp] theorem issueWord_lastStatus (s : State) (w : Word) : (s.issueWord w).lastStatus = s.lastStatus := rfl
@[simp] theorem issueWord_waitCount (s : State) (w : Word) : (s.issueWord w).waitCount = s.waitCount := rfl
@[simp] theorem issueWord_faults (s : State) (w : Word) : (s.issueWord w).faults = s.faults := rfl
@[simp] theorem issueWord_cfg (s : State) (w : Word) : (s.issueWord w).cfg = s.cfg := rfl
@[simp] theorem issueWord_schedule (s : State) (w : Word) : (s.issueWord w).schedule = s.schedule := rfl
@[simp] theorem issueWord_response (s : State) (w : Word) : (s.issueWord w).response = s.response := rfl
@[simp] theorem issueWord_resets (s : State) (w : Word) : (s.issueWord w).resets = s.resets := rfl
@[simp] theorem issueWord_isOn (s : State) (w : Word) (c : ClockSource) : (s.issueWord w).isOn c = s.isOn c := rfl
@[simp] theorem issueWord_isReady (s : State) (w : Word) (c : ClockSource) : (s.issueWord w).isReady c = s.isReady c := rfl
@[simp] theorem issueWord_hseByp (s : State) (w : Word) : (s.issueWord w).hseByp = s.hseByp := rfl
@[simp] theorem issueWord_sw (s : State) (w : Word) : (s.issueWord w).sw = s.sw := rfl
@[simp] theorem issueWord_sws (s : State) (w : Word) : (s.issueWord w).sws = s.sws := rfl
@[simp] theorem issueWord_pllM (s : State) (w : Word) : (s.issueWord w).pllM = s.pllM := rfl
@[simp] theorem issueWord_pllN (s : State) (w : Word) : (s.issueWord w).pllN = s.pllN := rfl
@[simp] theorem issueWord_pllP (s : State) (w : Word) : (s.issueWord w).pllP = s.pllP := rfl
@[simp] theorem issueWord_pllSrc (s : State) (w : Word) : (s.issueWord w).pllSrc = s.pllSrc := rfl

/-! ### `hostStatus` -/

@[simp] theorem hostStatus_cr (s : State) : (s.hostStatus).cr = s.cr := rfl
@[simp] theorem hostStatus_cfgr (s : State) : (s.hostStatus).cfgr = s.cfgr := rfl
@[simp] theorem hostStatus_pllcfgr (s : State) : (s.hostStatus).pllcfgr = s.pllcfgr := rfl
@[simp] theorem hostStatus_enr (s : State) : (s.hostStatus).enr = s.enr := rfl
@[simp] theorem hostStatus_phase (s : State) : (s.hostStatus).phase = s.phase := rfl
@[simp] theorem hostStatus_cmd (s : State) : (s.hostStatus).cmd = s.cmd := rfl
@[simp] theorem hostStatus_busy (s : State) : (s.hostStatus).busy = s.busy := rfl
@[simp] theorem hostStatus_lastStatus (s : State) : (s.hostStatus).lastStatus = s.lastStatus := rfl
@[simp] theorem hostStatus_waitCount (s : State) : (s.hostStatus).waitCount = s.waitCount := rfl
@[simp] theorem hostStatus_faults (s : State) : (s.hostStatus).faults = s.faults := rfl
@[simp] theorem hostStatus_cfg (s : State) : (s.hostStatus).cfg = s.cfg := rfl
@[simp] theorem hostStatus_schedule (s : State) : (s.hostStatus).schedule = s.schedule := rfl
@[simp] theorem hostStatus_response (s : State) : (s.hostStatus).response = some (.status s.busy s.lastStatus) := rfl
@[simp] theorem hostStatus_resets (s : State) : (s.hostStatus).resets = s.resets := rfl
@[simp] theorem hostStatus_isOn (s : State) (c : ClockSource) : (s.hostStatus).isOn c = s.isOn c := rfl
@[simp] theorem hostStatus_isReady (s : State) (c : ClockSource) : (s.hostStatus).isReady c = s.isReady c := rfl
@[simp] theorem hostStatus_hseByp (s : State) : (s.hostStatus).hseByp = s.hseByp := rfl
@[simp] theorem hostStatus_sw (s : State) : (s.hostStatus).sw = s.sw := rfl
@[simp] theorem hostStatus_sws (s : State) : (s.hostStatus).sws = s.sws := rfl
@[simp] theorem hostStatus_pllM (s : State) : (s.hostStatus).pllM = s.pllM := rfl
@[simp] theorem hostStatus_pllN (s : State) : (s.hostStatus).pllN = s.pllN := rfl
@[simp] theorem hostStatus_pllP (s : State) : (s.hostStatus).pllP = s.pllP := rfl
@[simp] theorem hostStatus_pllSrc (s : State) : (s.hostStatus).pllSrc = s.pllSrc := rfl

/-! ### `assertReset` -/

@[simp] theorem assertReset_cr (s : State) : (s.assertReset).cr = resetCr s.cfg (Config.hsiCal (s.resets + 1)) := rfl
@[simp] theorem assertReset_cfgr (s : State) : (s.assertReset).cfgr = resetCfgr s.cfg := rfl
@[simp] theorem assertReset_pllcfgr (s : State) : (s.assertReset).pllcfgr = resetPllcfgr s.cfg := rfl
@[simp] theorem assertReset_enr (s : State) : (s.assertReset).enr = s.cfg.enrReset := rfl
@[simp] theorem assertReset_phase (s : State) : (s.assertReset).phase = .idle := rfl
@[simp] theorem assertReset_cmd (s : State) : (s.assertReset).cmd = none := rfl
@[simp] theorem assertReset_busy (s : State) : (s.assertReset).busy = false := rfl
@[simp] theorem assertReset_lastStatus (s : State) : (s.assertReset).lastStatus = none := rfl
@[simp] theorem assertReset_waitCount (s : State) : (s.assertReset).waitCount = 0 := rfl
@[simp] theorem assertReset_faults (s : State) : (s.assertReset).faults = s.faults := rfl
@[simp] theorem assertReset_cfg (s : State) : (s.assertReset).cfg = s.cfg := rfl
@[simp] theorem assertReset_schedule (s : State) : (s.assertReset).schedule = s.schedule := rfl
@[simp] theorem assertReset_response (s : State) : (s.assertReset).response = s.response := rfl
@[simp] theorem assertReset_resets (s : State) : (s.assertReset).resets = s.resets + 1 := rfl

/-! ### `setReg`, `writeField` and `writeBit`: the fields that are no registers -/

@[simp] theorem setReg_phase (s : State) (r : RegId) (w : Word) : (s.setReg r w).phase = s.phase := by
  cases r <;> rfl
@[simp] theorem setReg_cmd (s : State) (r : RegId) (w : Word) : (s.setReg r w).cmd = s.cmd := by
  cases r <;> rfl
@[simp] theorem setReg_busy (s : State) (r : RegId) (w : Word) : (s.setReg r w).busy = s.busy := by
  cases r <;> rfl
@[simp] theorem setReg_lastStatus (s : State) (r : RegId) (w : Word) : (s.setReg r w).lastStatus = s.lastStatus := by
  cases r <;> rfl
@[simp] theorem setReg_waitCount (s : State) (r : RegId) (w : Word) : (s.setReg r w).waitCount = s.waitCount := by
  cases r <;> rfl
@[simp] theorem setReg_faults (s : State) (r : RegId) (w : Word) : (s.setReg r w).faults = s.faults := by
  cases r <;> rfl
@[simp] theorem setReg_cfg (s : State) (r : RegId) (w : Word) : (s.setReg r w).cfg = s.cfg := by
  cases r <;> rfl
@[simp] theorem setReg_schedule (s : State) (r : RegId) (w : Word) : (s.setReg r w).schedule = s.schedule := by
  cases r <;> rfl
@[simp] theorem setReg_response (s : State) (r : RegId) (w : Word) : (s.setReg r w).response = s.response := by
  cases r <;> rfl
@[simp] theorem setReg_resets (s : State) (r : RegId) (w : Word) : (s.setReg r w).resets = s.resets := by
  cases r <;> rfl
@[simp] theorem writeField_phase {n : Nat} (s : State) (r : RegId) (lo : Nat) (v : BitVec n) :
    (s.writeField r lo v).phase = s.phase := by
  simp [State.writeField]
@[simp] theorem writeField_cmd {n : Nat} (s : State) (r : RegId) (lo : Nat) (v : BitVec n) :
    (s.writeField r lo v).cmd = s.cmd := by
  simp [State.writeField]
@[simp] theorem writeField_busy {n : Nat} (s : State) (r : RegId) (lo : Nat) (v : BitVec n) :
    (s.writeField r lo v).busy = s.busy := by
  simp [State.writeField]
@[simp] theorem writeField_lastStatus {n : Nat} (s : State) (r : RegId) (lo : Nat) (v : BitVec n) :
    (s.writeField r lo v).lastStatus = s.lastStatus := by
  simp [State.writeField]
@[simp] theorem writeField_waitCount {n : Nat} (s : State) (r : RegId) (lo : Nat) (v : BitVec n) :
    (s.writeField r lo v).waitCount = s.waitCount := by
  simp [State.writeField]
@[simp] theorem writeField_faults {n : Nat} (s : State) (r : RegId) (lo : Nat) (v : BitVec n) :
    (s.writeField r lo v).faults = s.faults := by
  simp [State.writeField]
@[simp] theorem writeField_cfg {n : Nat} (s : State) (r : RegId) (lo : Nat) (v : BitVec n) :
    (s.writeField r lo v).cfg = s.cfg := by
  simp [State.writeField]
@[simp] theorem writeField_schedule {n : Nat} (s : State) (r : RegId) (lo : Nat) (v : BitVec n) :
    (s.writeField r lo v).schedule = s.schedule := by
  simp [State.writeField]
@[simp] theorem writeField_response {n : Nat} (s : State) (r : RegId) (lo : Nat) (v : BitVec n) :
    (s.writeField r lo v).response = s.response := by
  simp [State.writeField]
@[simp] theorem writeField_resets {n : Nat} (s : State) (r : RegId) (lo : Nat) (v : BitVec n) :
    (s.writeField r lo v).resets = s.resets := by
  simp [State.writeField]
@[simp] theorem writeBit_phase (s : State) (r : RegId) (i : Nat) (b : Bool) :
    (s.writeBit r i b).phase = s.phase := by
  simp [State.writeBit]
@[simp] theorem writeBit_cmd (s : State) (r : RegId) (i : Nat) (b : Bool) :
    (s.writeBit r i b).cmd = s.cmd := by
  simp [State.writeBit]
@[simp] theorem writeBit_busy (s : State) (r : RegId) (i : Nat) (b : Bool) :
    (s.writeBit r i b).busy = s.busy := by
  simp [State.writeBit]
@[simp] theorem writeBit_lastStatus (s : State) (r : RegId) (i : Nat) (b : Bool) :
    (s.writeBit r i b).lastStatus = s.lastStatus := by
  simp [State.writeBit]
@[simp] theorem writeBit_waitCount (s : State) (r : RegId) (i : Nat) (b : Bool) :
    (s.writeBit r i b).waitCount = s.waitCount := by
  simp [State.writeBit]
@[simp] theorem writeBit_faults (s : State) (r : RegId) (i : Nat) (b : Bool) :
    (s.writeBit r i b).faults = s.faults := by
  simp [State.writeBit]
@[simp] theorem writeBit_cfg (s : State) (r : RegId) (i : Nat) (b : Bool) :
    (s.writeBit r i b).cfg = s.cfg := by
  simp [State.writeBit]
@[simp] theorem writeBit_schedule (s : State) (r : RegId) (i : Nat) (b : Bool) :
    (s.writeBit r i b).schedule = s.schedule := by
  simp [State.writeBit]
@[simp] theorem writeBit_response (s : State) (r : RegId) (i : Nat) (b : Bool) :
    (s.writeBit r i b).response = s.response := by
  simp [State.writeBit]
@[simp] theorem writeBit_resets (s : State) (r : RegId) (i : Nat) (b : Bool) :
    (s.writeBit r i b).resets = s.resets := by
  simp [State.writeBit]

/-! ### `setReg`: the registers -/

@[simp] theorem setReg_cr_cr (s : State) (w : Word) : (s.setReg .cr w).cr = w := rfl
@[simp] theorem setReg_cr_pllcfgr (s : State) (w : Word) : (s.setReg .cr w).pllcfgr = s.pllcfgr := rfl
@[simp] theorem setReg_cr_cfgr (s : State) (w : Word) : (s.setReg .cr w).cfgr = s.cfgr := rfl
@[simp] theorem setReg_cr_enr (s : State) (w : Word) : (s.setReg .cr w).enr = s.enr := rfl
@[simp] theorem setReg_pllcfgr_cr (s : State) (w : Word) : (s.setReg .pllcfgr w).cr = s.cr := rfl
@[simp] theorem setReg_pllcfgr_pllcfgr (s : State) (w : Word) : (s.setReg .pllcfgr w).pllcfgr = w := rfl
@[simp] theorem setReg_pllcfgr_cfgr (s : State) (w : Word) : (s.setReg .pllcfgr w).cfgr = s.cfgr := rfl
@[simp] theorem setReg_pllcfgr_enr (s : State) (w : Word) : (s.setReg .pllcfgr w).enr = s.enr := rfl
@[simp] theorem setReg_cfgr_cr (s : State) (w : Word) : (s.setReg .cfgr w).cr = s.cr := rfl
@[simp] theorem setReg_cfgr_pllcfgr (s : State) (w : Word) : (s.setReg .cfgr w).pllcfgr = s.pllcfgr := rfl
@[simp] theorem setReg_cfgr_cfgr (s : State) (w : Word) : (s.setReg .cfgr w).cfgr = w := rfl
@[simp] theorem setReg_cfgr_enr (s : State) (w : Word) : (s.setReg .cfgr w).enr = s.enr := rfl
@[simp] theorem setReg_enr_cr (s : State) (b : Bus) (w : Word) : (s.setReg (.enr b) w).cr = s.cr := rfl
@[simp] theorem setReg_enr_pllcfgr (s : State) (b : Bus) (w : Word) : (s.setReg (.enr b) w).pllcfgr = s.pllcfgr := rfl
@[simp] theorem setReg_enr_cfgr (s : State) (b : Bus) (w : Word) : (s.setReg (.enr b) w).cfgr = s.cfgr := rfl
@[simp] theorem setReg_enr_enr (s : State) (b : Bus) (w : Word) :
    (s.setReg (.enr b) w).enr = busSet s.enr b w := rfl

/-- A register bank read after a write of one register. -/
@[simp] theorem busGet_busSet {α : Type} (r : PerBus α) (b c : Bus) (v : α) :
    busGet (busSet r b v) c = if c = b then v else busGet r c := by
  cases b <;> cases c <;> rfl

/-- Writing a register leaves every other register as it was. -/
theorem reg_setReg (s : State) (r q : RegId) (w : Word) :
    (s.setReg r w).reg q = if q = r then w else s.reg q := by
  cases r <;> cases q <;> simp [State.setReg, State.reg]


@[simp] theorem writeField_pllcfgr_cr {n : Nat} (s : State) (lo : Nat) (v : BitVec n) :
    (s.writeField .pllcfgr lo v).cr = s.cr := rfl
@[simp] theorem writeBit_pllcfgr_cr (s : State) (i : Nat) (v : Bool) :
    (s.writeBit .pllcfgr i v).cr = s.cr := rfl
@[simp] theorem writeField_cfgr_cr {n : Nat} (s : State) (lo : Nat) (v : BitVec n) :
    (s.writeField .cfgr lo v).cr = s.cr := rfl
@[simp] theorem writeBit_cfgr_cr (s : State) (i : Nat) (v : Bool) :
    (s.writeBit .cfgr i v).cr = s.cr := rfl
@[simp] theorem writeField_enr_cr {n : Nat} (s : State) (b : Bus) (lo : Nat) (v : BitVec n) :
    (s.writeField (.enr b) lo v).cr = s.cr := rfl
@[simp] theorem writeBit_enr_cr (s : State) (b : Bus) (i : Nat) (v : Bool) :
    (s.writeBit (.enr b) i v).cr = s.cr := rfl
@[simp] theorem writeField_cr_cfgr {n : Nat} (s : State) (lo : Nat) (v : BitVec n) :
    (s.writeField .cr lo v).cfgr = s.cfgr := rfl
@[simp] theorem writeBit_cr_cfgr (s : State) (i : Nat) (v : Bool) :
    (s.writeBit .cr i v).cfgr = s.cfgr := rfl
@[simp] theorem writeField_pllcfgr_cfgr {n : Nat} (s : State) (lo : Nat) (v : BitVec n) :
    (s.writeField .pllcfgr lo v).cfgr = s.cfgr := rfl
@[simp] theorem writeBit_pllcfgr_cfgr (s : State) (i : Nat) (v : Bool) :
    (s.writeBit .pllcfgr i v).cfgr = s.cfgr := rfl
@[simp] theorem writeField_enr_cfgr {n : Nat} (s : State) (b : Bus) (lo : Nat) (v : BitVec n) :
    (s.writeField (.enr b) lo v).cfgr = s.cfgr := rfl
@[simp] theorem writeBit_enr_cfgr (s : State) (b : Bus) (i : Nat) (v : Bool) :
    (s.writeBit (.enr b) i v).cfgr = s.cfgr := rfl
@[simp] theorem writeField_cr_pllcfgr {n : Nat} (s : State) (lo : Nat) (v : BitVec n) :
    (s.writeField .cr lo v).pllcfgr = s.pllcfgr := rfl
@[simp] theorem writeBit_cr_pllcfgr (s : State) (i : Nat) (v : Bool) :
    (s.writeBit .cr i v).pllcfgr = s.pllcfgr := rfl
@[simp] theorem writeField_cfgr_pllcfgr {n : Nat} (s : State) (lo : Nat) (v : BitVec n) :
    (s.writeField .cfgr lo v).pllcfgr = s.pllcfgr := rfl
@[simp] theorem writeBit_cfgr_pllcfgr (s : State) (i : Nat) (v : Bool) :
    (s.writeBit .cfgr i v).pllcfgr = s.pllcfgr := rfl
@[simp] theorem writeField_enr_pllcfgr {n : Nat} (s : State) (b : Bus) (lo : Nat) (v : BitVec n) :
    (s.writeField (.enr b) lo v).pllcfgr = s.pllcfgr := rfl
@[simp] theorem writeBit_enr_pllcfgr (s : State) (b : Bus) (i : Nat) (v : Bool) :
    (s.writeBit (.enr b) i v).pllcfgr = s.pllcfgr := rfl
@[simp] theorem writeField_cr_enr {n : Nat} (s : State) (lo : Nat) (v : BitVec n) :
    (s.writeField .cr lo v).enr = s.enr := rfl
@[simp] theorem writeBit_cr_enr (s : State) (i : Nat) (v : Bool) :
    (s.writeBit .cr i v).enr = s.enr := rfl
@[simp] theorem writeField_cfgr_enr {n : Nat} (s : State) (lo : Nat) (v : BitVec n) :
    (s.writeField .cfgr lo v).enr = s.enr := rfl
@[simp] theorem writeBit_cfgr_enr (s : State) (i : Nat) (v : Bool) :
    (s.writeBit .cfgr i v).enr = s.enr := rfl
@[simp] theorem writeField_pllcfgr_enr {n : Nat} (s : State) (lo : Nat) (v : BitVec n) :
    (s.writeField .pllcfgr lo v).enr = s.enr := rfl
@[simp] theorem writeBit_pllcfgr_enr (s : State) (i : Nat) (v : Bool) :
    (s.writeBit .pllcfgr i v).enr = s.enr := rfl

@[simp] theorem writeField_cr_cr {n : Nat} (s : State) (lo : Nat) (v : BitVec n) :
    (s.writeField .cr lo v).cr = setField s.cr lo v := rfl
@[simp] theorem writeField_cfgr_cfgr {n : Nat} (s : State) (lo : Nat) (v : BitVec n) :
    (s.writeField .cfgr lo v).cfgr = setField s.cfgr lo v := rfl
@[simp] theorem writeField_pllcfgr_pllcfgr {n : Nat} (s : State) (lo : Nat) (v : BitVec n) :
    (s.writeField .pllcfgr lo v).pllcfgr = setField s.pllcfgr lo v := rfl
@[simp] theorem writeBit_cr_cr (s : State) (i : Nat) (v : Bool) :
    (s.writeBit .cr i v).cr = setField s.cr i (BitVec.ofBool v) := rfl
@[simp] theorem writeBit_pllcfgr_pllcfgr (s : State) (i : Nat) (v : Bool) :
    (s.writeBit .pllcfgr i v).pllcfgr = setField s.pllcfgr i (BitVec.ofBool v) := rfl
@[simp] theorem writeBit_enr_enr (s : State) (b : Bus) (i : Nat) (v : Bool) :
    (s.writeBit (.enr b) i v).enr = busSet s.enr b (setField (busGet s.enr b) i (BitVec.ofBool v)) := rfl

end Sys2Proof.Machine
end

