-- ==== Sys2Proof/Laws/Fields.lean ====
section
/-! SUPPORT. What a field write does, bit by bit and field by field (10_state.md R31), and where the
bits of CR stand for legal parameters (00_scope.md R8; 10_state.md R25, R26). -/

namespace Sys2Proof.Machine

/-- R31: the bits of the field become the value, every other bit stays. -/
theorem getLsbD_setField {n : Nat} (w : Word) (lo : Nat) (v : BitVec n) (j : Nat) :
    (setField w lo v).getLsbD j =
      if lo ≤ j ∧ j < lo + n ∧ j < 32 then v.getLsbD (j - lo) else w.getLsbD j := by
  unfold setField fieldMask
  simp only [BitVec.getLsbD_or, BitVec.getLsbD_and, BitVec.getLsbD_not, BitVec.getLsbD_shiftLeft,
    BitVec.getLsbD_setWidth, BitVec.getLsbD_allOnes]
  by_cases h3 : j < 32
  · by_cases h1 : j < lo
    · simp [h1, h3, show ¬ lo ≤ j by omega]
    · by_cases h2 : j < lo + n
      · simp [h1, h2, h3, show lo ≤ j by omega, show j - lo < 32 by omega, show j - lo < n by omega]
      · simp [h1, h2, h3, BitVec.getLsbD_of_ge v (j - lo) (by omega), show ¬ j - lo < n by omega]
  · simp [h3, BitVec.getLsbD_of_ge w j (by omega)]

/-- R31 for one bit. -/
@[simp] theorem getLsbD_setBit (w : Word) (i : Nat) (b : Bool) (j : Nat) :
    (setField w i (BitVec.ofBool b)).getLsbD j = if j = i ∧ j < 32 then b else w.getLsbD j := by
  rw [getLsbD_setField]
  by_cases h : j = i
  · subst h; by_cases h2 : j < 32 <;> simp [h2]
  · rw [if_neg (show ¬ (i ≤ j ∧ j < i + 1 ∧ j < 32) by omega), if_neg (fun k => h k.1)]

/-- A field reads back what was written to it. -/
theorem getField_setField_same {n : Nat} (w : Word) (lo : Nat) (v : BitVec n) (h : lo + n ≤ 32) :
    getField (setField w lo v) lo n = v := by
  apply BitVec.eq_of_getLsbD_eq
  intro j hj
  simp only [getField, BitVec.getLsbD_extractLsb', hj, decide_true, Bool.true_and]
  rw [getLsbD_setField, if_pos (by omega), Nat.add_sub_cancel_left]

/-- A field reads as before after a write to a field that lies apart from it. -/
theorem getField_setField_apart {n : Nat} (w : Word) (lo : Nat) (v : BitVec n) (a k : Nat)
    (h : a + k ≤ lo ∨ lo + n ≤ a) : getField (setField w lo v) a k = getField w a k := by
  apply BitVec.eq_of_getLsbD_eq
  intro j hj
  simp only [getField, BitVec.getLsbD_extractLsb']
  rw [getLsbD_setField, if_neg (by omega)]

/-- The bits of the word that has 1 at the listed positions. -/
theorem getLsbD_maskOf (l : List Nat) (j : Nat) (hj : j < 32) :
    (maskOf l).getLsbD j = decide (j ∈ l) := by
  induction l with
  | nil => simp [maskOf]
  | cons a l ih =>
    have : maskOf (a :: l) = setField (maskOf l) a 1#1 := rfl
    rw [this, getLsbD_setField, ih]
    by_cases h : j = a
    · subst h; simp [hj]
    · rw [if_neg (show ¬ (a ≤ j ∧ j < a + 1 ∧ j < 32) by omega)]
      simp [h]

/-- A mixed register, bit by bit. -/
theorem getLsbD_mixOwned (l : List Nat) (own other : Word) (j : Nat) (hj : j < 32) :
    (mixOwned l own other).getLsbD j = if j ∈ l then own.getLsbD j else other.getLsbD j := by
  unfold mixOwned
  simp only [BitVec.getLsbD_or, BitVec.getLsbD_and, BitVec.getLsbD_not, getLsbD_maskOf l j hj, hj]
  by_cases h : j ∈ l <;> simp [h]

/-! ### The positions of CR's bits for legal parameters -/

theorem onBit_lt (p : Params) (h : p.Legal) (c : ClockSource) : onBit p c ≤ 30 := by
  have h1 := h.plli2s.inRange
  have h2 := h.pllsai.inRange
  cases c <;> simp [onBit, *]

theorem rdyBit_lt (p : Params) (h : p.Legal) (c : ClockSource) : rdyBit p c < 32 := by
  have := onBit_lt p h c
  simp only [rdyBit]
  omega

/-- No enable bit is a ready bit (R8, R26; 90_conflicts.md C7). -/
theorem onBit_ne_rdyBit (p : Params) (h : p.Legal) (c d : ClockSource) : onBit p c ≠ rdyBit p d := by
  have h1 := h.plli2s.onFree
  have h2 := h.pllsai.onFree
  have h3 := h.plli2s.rdyFree
  have h4 := h.pllsai.rdyFree
  obtain ⟨h5, h6, h7⟩ := h.disjoint
  simp [fixedCrBits] at h1 h2 h3 h4
  cases c <;> cases d <;> simp [onBit, rdyBit] <;> omega

/-- Two sources have different enable bits (R8, R26). -/
theorem onBit_inj (p : Params) (h : p.Legal) (c d : ClockSource) : onBit p c = onBit p d ↔ c = d := by
  have h1 := h.plli2s.onFree
  have h2 := h.pllsai.onFree
  obtain ⟨h5, h6, h7⟩ := h.disjoint
  simp [fixedCrBits] at h1 h2
  cases c <;> cases d <;> simp [onBit] <;> omega

/-- Two sources have different ready bits (R8, R26). -/
theorem rdyBit_inj (p : Params) (h : p.Legal) (c d : ClockSource) :
    rdyBit p c = rdyBit p d ↔ c = d := by
  simp [rdyBit, onBit_inj p h]

/-- HSEBYP is no enable bit (R25). -/
theorem onBit_ne_hseByp (p : Params) (h : p.Legal) (c : ClockSource) : onBit p c ≠ hseBypBit := by
  have h1 := h.plli2s.onFree
  have h2 := h.pllsai.onFree
  simp [fixedCrBits] at h1 h2
  cases c <;> simp [onBit, hseBypBit] <;> omega

/-- HSEBYP is no ready bit (R25). -/
theorem rdyBit_ne_hseByp (p : Params) (h : p.Legal) (c : ClockSource) :
    rdyBit p c ≠ hseBypBit := by
  have h1 := h.plli2s.rdyFree
  have h2 := h.pllsai.rdyFree
  simp [fixedCrBits] at h1 h2
  cases c <;> simp [rdyBit, onBit, hseBypBit] <;> omega

end Sys2Proof.Machine
end

