-- ==== Sys2Proof/Laws/Registers.lean ====
section
/-! SUPPORT. Each named field after each register write the model makes (10_state.md R25 to R31). -/

namespace Sys2Proof.Machine

/-! ### CR -/

theorem isOn_writeBit (s : State) (h : s.cfg.Legal) (i : Nat) (b : Bool) (d : ClockSource) :
    (s.writeBit .cr i b).isOn d = if onBit s.cfg d = i then b else s.isOn d := by
  have := onBit_lt s.cfg h d
  simp only [State.isOn, writeBit_cr_cr, writeBit_cfg, getLsbD_setBit]
  simp [show onBit s.cfg d < 32 by omega]

theorem isReady_writeBit (s : State) (h : s.cfg.Legal) (i : Nat) (b : Bool) (d : ClockSource) :
    (s.writeBit .cr i b).isReady d = if rdyBit s.cfg d = i then b else s.isReady d := by
  have := rdyBit_lt s.cfg h d
  simp only [State.isReady, writeBit_cr_cr, writeBit_cfg, getLsbD_setBit]
  simp [this]

/-- The write of an enable bit, seen by the enable bits. -/
theorem isOn_writeOn (s : State) (h : s.cfg.Legal) (c d : ClockSource) (b : Bool) :
    (s.writeBit .cr (onBit s.cfg c) b).isOn d = if d = c then b else s.isOn d := by
  simp [isOn_writeBit s h, onBit_inj s.cfg h]

/-- The write of an enable bit, seen by the ready bits. -/
theorem isReady_writeOn (s : State) (h : s.cfg.Legal) (c d : ClockSource) (b : Bool) :
    (s.writeBit .cr (onBit s.cfg c) b).isReady d = s.isReady d := by
  simp [isReady_writeBit s h, (onBit_ne_rdyBit s.cfg h c d).symm]

/-- The write of a ready bit, seen by the enable bits. -/
theorem isOn_writeRdy (s : State) (h : s.cfg.Legal) (c d : ClockSource) (b : Bool) :
    (s.writeBit .cr (rdyBit s.cfg c) b).isOn d = s.isOn d := by
  simp [isOn_writeBit s h, onBit_ne_rdyBit s.cfg h d c]

/-- The write of a ready bit, seen by the ready bits. -/
theorem isReady_writeRdy (s : State) (h : s.cfg.Legal) (c d : ClockSource) (b : Bool) :
    (s.writeBit .cr (rdyBit s.cfg c) b).isReady d = if d = c then b else s.isReady d := by
  simp [isReady_writeBit s h, rdyBit_inj s.cfg h]

/-- The write of HSEBYP, seen by the enable bits. -/
theorem isOn_writeByp (s : State) (h : s.cfg.Legal) (d : ClockSource) (b : Bool) :
    (s.writeBit .cr hseBypBit b).isOn d = s.isOn d := by
  simp [isOn_writeBit s h, onBit_ne_hseByp s.cfg h d]

/-- The write of HSEBYP, seen by the ready bits. -/
theorem isReady_writeByp (s : State) (h : s.cfg.Legal) (d : ClockSource) (b : Bool) :
    (s.writeBit .cr hseBypBit b).isReady d = s.isReady d := by
  simp [isReady_writeBit s h, rdyBit_ne_hseByp s.cfg h d]

/-! ### A register's fields after a write to another register -/

@[simp] theorem isOn_writeField_cfgr {n : Nat} (s : State) (lo : Nat) (v : BitVec n)
    (c : ClockSource) : (s.writeField .cfgr lo v).isOn c = s.isOn c := rfl
@[simp] theorem isReady_writeField_cfgr {n : Nat} (s : State) (lo : Nat) (v : BitVec n)
    (c : ClockSource) : (s.writeField .cfgr lo v).isReady c = s.isReady c := rfl
@[simp] theorem isOn_writeField_pllcfgr {n : Nat} (s : State) (lo : Nat) (v : BitVec n)
    (c : ClockSource) : (s.writeField .pllcfgr lo v).isOn c = s.isOn c := rfl
@[simp] theorem isReady_writeField_pllcfgr {n : Nat} (s : State) (lo : Nat) (v : BitVec n)
    (c : ClockSource) : (s.writeField .pllcfgr lo v).isReady c = s.isReady c := rfl
@[simp] theorem isOn_writeBit_pllcfgr (s : State) (i : Nat) (v : Bool)
    (c : ClockSource) : (s.writeBit .pllcfgr i v).isOn c = s.isOn c := rfl
@[simp] theorem isReady_writeBit_pllcfgr (s : State) (i : Nat) (v : Bool)
    (c : ClockSource) : (s.writeBit .pllcfgr i v).isReady c = s.isReady c := rfl
@[simp] theorem sw_writeBit_cr (s : State) (i : Nat) (v : Bool) :
    (s.writeBit .cr i v).sw = s.sw := rfl
@[simp] theorem sws_writeBit_cr (s : State) (i : Nat) (v : Bool) :
    (s.writeBit .cr i v).sws = s.sws := rfl
@[simp] theorem pllM_writeBit_cr (s : State) (i : Nat) (v : Bool) :
    (s.writeBit .cr i v).pllM = s.pllM := rfl
@[simp] theorem pllN_writeBit_cr (s : State) (i : Nat) (v : Bool) :
    (s.writeBit .cr i v).pllN = s.pllN := rfl
@[simp] theorem pllP_writeBit_cr (s : State) (i : Nat) (v : Bool) :
    (s.writeBit .cr i v).pllP = s.pllP := rfl
@[simp] theorem pllSrc_writeBit_cr (s : State) (i : Nat) (v : Bool) :
    (s.writeBit .cr i v).pllSrc = s.pllSrc := rfl
@[simp] theorem pllM_writeField_cfgr {n : Nat} (s : State) (lo : Nat) (v : BitVec n) :
    (s.writeField .cfgr lo v).pllM = s.pllM := rfl
@[simp] theorem pllN_writeField_cfgr {n : Nat} (s : State) (lo : Nat) (v : BitVec n) :
    (s.writeField .cfgr lo v).pllN = s.pllN := rfl
@[simp] theorem pllP_writeField_cfgr {n : Nat} (s : State) (lo : Nat) (v : BitVec n) :
    (s.writeField .cfgr lo v).pllP = s.pllP := rfl
@[simp] theorem pllSrc_writeField_cfgr {n : Nat} (s : State) (lo : Nat) (v : BitVec n) :
    (s.writeField .cfgr lo v).pllSrc = s.pllSrc := rfl

/-! ### CFGR -/

/-- The write of SW. -/
@[simp] theorem sw_writeSw (s : State) (v : BitVec 2) : (s.writeField .cfgr swLo v).sw = v :=
  getField_setField_same _ _ _ (by decide)

/-- The write of SW leaves SWS. -/
@[simp] theorem sws_writeSw (s : State) (v : BitVec 2) : (s.writeField .cfgr swLo v).sws = s.sws :=
  getField_setField_apart _ _ _ _ _ (by decide)

/-- The write of SWS. -/
@[simp] theorem sws_writeSws (s : State) (v : BitVec 2) : (s.writeField .cfgr swsLo v).sws = v :=
  getField_setField_same _ _ _ (by decide)

/-- The write of SWS leaves SW. -/
@[simp] theorem sw_writeSws (s : State) (v : BitVec 2) : (s.writeField .cfgr swsLo v).sw = s.sw :=
  getField_setField_apart _ _ _ _ _ (by decide)

/-! ### PLLCFGR -/

/-- The write of PLLSRC. -/
@[simp] theorem pllSrc_writeSrc (s : State) (b : Bool) :
    (s.writeBit .pllcfgr pllSrcBit b).pllSrc = b := by
  simp only [State.pllSrc, writeBit_pllcfgr_pllcfgr, getLsbD_setBit]
  simp [pllSrcBit]

/-- The write of PLLM and PLLN leaves PLLSRC. -/
@[simp] theorem pllSrc_writeFactors (s : State) (v : BitVec 15) :
    (s.writeField .pllcfgr pllMLo v).pllSrc = s.pllSrc := by
  simp only [State.pllSrc, writeField_pllcfgr_pllcfgr, getLsbD_setField]
  simp [pllSrcBit, pllMLo]

/-- The write of PLLP leaves PLLSRC. -/
@[simp] theorem pllSrc_writeCode (s : State) (v : BitVec 2) :
    (s.writeField .pllcfgr pllPLo v).pllSrc = s.pllSrc := by
  simp only [State.pllSrc, writeField_pllcfgr_pllcfgr, getLsbD_setField]
  simp [pllSrcBit, pllPLo]

/-- The write of PLLP. -/
@[simp] theorem pllP_writeCode (s : State) (v : BitVec 2) :
    (s.writeField .pllcfgr pllPLo v).pllP = v :=
  getField_setField_same _ _ _ (by decide)

/-- The write of PLLP leaves PLLM. -/
@[simp] theorem pllM_writeCode (s : State) (v : BitVec 2) :
    (s.writeField .pllcfgr pllPLo v).pllM = s.pllM :=
  getField_setField_apart _ _ _ _ _ (by decide)

/-- The write of PLLP leaves PLLN. -/
@[simp] theorem pllN_writeCode (s : State) (v : BitVec 2) :
    (s.writeField .pllcfgr pllPLo v).pllN = s.pllN :=
  getField_setField_apart _ _ _ _ _ (by decide)

/-- The write of PLLM and PLLN leaves PLLP. -/
@[simp] theorem pllP_writeFactors (s : State) (v : BitVec 15) :
    (s.writeField .pllcfgr pllMLo v).pllP = s.pllP :=
  getField_setField_apart _ _ _ _ _ (by decide)

/-- The write of PLLSRC leaves PLLM. -/
@[simp] theorem pllM_writeSrc (s : State) (b : Bool) :
    (s.writeBit .pllcfgr pllSrcBit b).pllM = s.pllM :=
  getField_setField_apart _ _ _ _ _ (by decide)

/-- The write of PLLSRC leaves PLLN. -/
@[simp] theorem pllN_writeSrc (s : State) (b : Bool) :
    (s.writeBit .pllcfgr pllSrcBit b).pllN = s.pllN :=
  getField_setField_apart _ _ _ _ _ (by decide)

/-- The write of PLLSRC leaves PLLP. -/
@[simp] theorem pllP_writeSrc (s : State) (b : Bool) :
    (s.writeBit .pllcfgr pllSrcBit b).pllP = s.pllP :=
  getField_setField_apart _ _ _ _ _ (by decide)

/-- The write of PLLM and PLLN gives PLLM (R155). -/
theorem pllM_writeFactors (s : State) (n m : Nat) :
    (s.writeField .pllcfgr pllMLo (pllFactors n m)).pllM = BitVec.ofNat 6 m := by
  apply BitVec.eq_of_getLsbD_eq
  intro j hj
  simp only [State.pllM, getField, writeField_pllcfgr_pllcfgr, BitVec.getLsbD_extractLsb',
    hj, decide_true, Bool.true_and, getLsbD_setField, pllMLo, pllFactors, BitVec.getLsbD_append]
  rw [if_pos (by omega)]
  simp [hj]

/-- The write of PLLM and PLLN gives PLLN (R155). -/
theorem pllN_writeFactors (s : State) (n m : Nat) :
    (s.writeField .pllcfgr pllMLo (pllFactors n m)).pllN = BitVec.ofNat 9 n := by
  apply BitVec.eq_of_getLsbD_eq
  intro j hj
  simp only [State.pllN, getField, writeField_pllcfgr_pllcfgr, BitVec.getLsbD_extractLsb',
    hj, decide_true, Bool.true_and, getLsbD_setField, pllMLo, pllNLo, pllFactors,
    BitVec.getLsbD_append]
  rw [if_pos (by omega)]
  simp

end Sys2Proof.Machine
end

