-- ==== Sys2Proof/Laws/Ops.lean ====
section
/-! SUPPORT. For each shared operation, once, everything it can do. -/

namespace Sys2Proof.Machine

/-- What a failed poll does (40_command_cycle.md R105). -/
theorem failedPoll_cases (s : State) :
    (s.cfg.waitBound = none ∧ s.failedPoll = s) ∨
    (∃ k, s.cfg.waitBound = some k ∧ s.waitCount + 1 = k ∧
      s.failedPoll = s.finish .hardwareTimeout) ∨
    (∃ k, s.cfg.waitBound = some k ∧ s.waitCount + 1 ≠ k ∧
      s.failedPoll = { s with waitCount := s.waitCount + 1 }) := by
  unfold State.failedPoll
  cases h : s.cfg.waitBound with
  | none => simp
  | some k =>
    by_cases hk : s.waitCount + 1 = k
    · refine .inr (.inl ⟨k, rfl, hk, ?_⟩)
      simp [hk, State.raise, State.finish]
    · exact .inr (.inr ⟨k, rfl, hk, by simp [hk]⟩)

/-- What a wait phase does (40_command_cycle.md R105). -/
theorem waitUntil_cases (s : State) (cond : Bool) (next : State → State) :
    (cond = true ∧ s.waitUntil cond next = next { s with waitCount := 0 }) ∨
    (cond = false ∧ s.waitUntil cond next = s.failedPoll) := by
  cases cond <;> simp [State.waitUntil]

/-- What the host's register read does (20_memory.md R63; 60_exceptions.md R188). -/
theorem hostRead_cases (s : State) (addr : Word) (size : Nat) :
    (∃ w, memRead s addr size = .ok w ∧
      s.hostRead addr size = { s with response := some (.data w) }) ∨
    (memRead s addr size = .error (.unmappedRead addr size) ∧
      s.hostRead addr size =
        { s with response := none, faults := .unmappedRead addr size :: s.faults }) := by
  unfold State.hostRead memRead
  by_cases h : size = 4
  · subst h
    cases hr : regAt s.cfg addr <;> simp
  · simp [h]

/-- What the ready-bit move does (60_exceptions.md R190): the ready bit becomes the enable bit. -/
theorem envReady_cases (s : State) (c : ClockSource) :
    (s.isReady c = s.isOn c ∧ s.envReady c = s) ∨
    (s.isReady c ≠ s.isOn c ∧ s.envReady c = s.writeBit .cr (rdyBit s.cfg c) (s.isOn c)) := by
  unfold State.envReady
  by_cases h : s.isReady c = s.isOn c <;> simp [h]

/-- What the switch move does (60_exceptions.md R191): SWS becomes SW. -/
theorem envSwitch_cases (s : State) :
    (s.sws = s.sw ∧ s.envSwitch = s) ∨
    (s.sws ≠ s.sw ∧ s.envSwitch = s.writeField .cfgr swsLo s.sw) := by
  unfold State.envSwitch
  by_cases h : s.sws = s.sw <;> simp [h]

/-- What `regAt` answers is a register at that address (20_memory.md R62). -/
theorem regAt_address (p : Params) (addr : Word) (r : RegId) (h : regAt p addr = some r) :
    regAddress p r = addr.toNat := by
  have := List.find?_some h
  simpa using this

end Sys2Proof.Machine
end

