-- ==== Sys2Proof/Laws/Commands.lean ====
section
/-! SUPPORT. What one controller step of each command can do: one inversion lemma for each meaning.
Callers cite these and never unfold a meaning. -/

namespace Sys2Proof.Machine

/-- The phases of CLK_ENABLE (R120). -/
theorem execClkEnable_cases {src : Nat} {s t : State} (h : exec (.clkEnable src) s = .next t) :
    (s.phase = .decode ∧ t = s.goto .clkSet) ∨
    (s.phase = .clkSet ∧ t = clkSet src true s) ∨
    (s.phase = .clkWait ∧ ∃ c, sourceOfId src = some c ∧
      t = s.waitUntil (s.isReady c == true) (fun u => u.finish .ok)) := by
  simp only [exec, execClkEnable] at h
  split at h
  case h_1 hp => exact .inl ⟨hp, by simpa [eq_comm] using h⟩
  case h_2 hp => exact .inr (.inl ⟨hp, by simpa [eq_comm] using h⟩)
  case h_3 hp =>
    unfold clkWait at h
    split at h
    · simp at h
    case h_2 c hc => exact .inr (.inr ⟨hp, c, hc, (Host.Outcome.next.inj h).symm⟩)
  case h_4 => simp at h

/-- The phases of CLK_DISABLE (R121). -/
theorem execClkDisable_cases {src : Nat} {s t : State} (h : exec (.clkDisable src) s = .next t) :
    (s.phase = .decode ∧ t = s.goto .clkSet) ∨
    (s.phase = .clkSet ∧ t = clkSet src false s) ∨
    (s.phase = .clkWait ∧ ∃ c, sourceOfId src = some c ∧
      t = s.waitUntil (s.isReady c == false) (fun u => u.finish .ok)) := by
  simp only [exec, execClkDisable] at h
  split at h
  case h_1 hp => exact .inl ⟨hp, by simpa [eq_comm] using h⟩
  case h_2 hp => exact .inr (.inl ⟨hp, by simpa [eq_comm] using h⟩)
  case h_3 hp =>
    unfold clkWait at h
    split at h
    · simp at h
    case h_2 c hc => exact .inr (.inr ⟨hp, c, hc, (Host.Outcome.next.inj h).symm⟩)
  case h_4 => simp at h

/-- The phases of SYSCLK_SELECT (R130). -/
theorem execSysclkSelect_cases {val : Nat} {s t : State}
    (h : exec (.sysclkSelect val) s = .next t) :
    (s.phase = .decode ∧ t = s.goto .sysSet) ∨ (s.phase = .sysSet ∧ t = sysSet val s) ∨
    (s.phase = .sysWait ∧ t = sysWait val s) := by
  simp only [exec, execSysclkSelect] at h
  split at h <;> simp_all [eq_comm]

/-- The phases of HSE_BYPASS (R140). -/
theorem execHseBypass_cases {val : Nat} {s t : State} (h : exec (.hseBypass val) s = .next t) :
    (s.phase = .decode ∧ t = s.goto .bypSet) ∨ (s.phase = .bypSet ∧ t = bypSet val s) := by
  simp only [exec, execHseBypass] at h
  split at h <;> simp_all [eq_comm]

/-- The phases of PLL_CONFIG (R150). -/
theorem execPllConfig_cases {src m n p : Nat} {s t : State}
    (h : exec (.pllConfig src m n p) s = .next t) :
    (s.phase = .decode ∧ t = s.goto .pllOff) ∨ (s.phase = .pllOff ∧ t = pllOff s) ∨
    (s.phase = .pllOffWait ∧ t = pllOffWait s) ∨ (s.phase = .pllSrc ∧ t = pllSource src s) ∨
    (s.phase = .pllChkN ∧ t = pllCheckN n s) ∨ (s.phase = .pllChkM ∧ t = pllCheckM m s) ∨
    (s.phase = .pllMn ∧ t = pllWriteFactors m n s) ∨ (s.phase = .pllP ∧ t = pllWriteCode m p s) ∨
    (s.phase = .pllOn ∧ t = pllTurnOn s) ∨ (s.phase = .pllOnWait ∧ t = pllOnWait s) := by
  simp only [exec, execPllConfig] at h
  split at h <;> simp_all [eq_comm]

/-- The phases of PERIPH_ENABLE (R170). -/
theorem execPeriphEnable_cases {bus : Bus} {pos : Nat} {s t : State}
    (h : exec (.periphEnable bus pos) s = .next t) :
    (s.phase = .decode ∧ t = s.goto .gateSet) ∨
    (s.phase = .gateSet ∧ t = gateSet bus pos true s) := by
  simp only [exec, execPeriphEnable] at h
  split at h <;> simp_all [eq_comm]

/-- The phases of PERIPH_DISABLE (R171). -/
theorem execPeriphDisable_cases {bus : Bus} {pos : Nat} {s t : State}
    (h : exec (.periphDisable bus pos) s = .next t) :
    (s.phase = .decode ∧ t = s.goto .gateSet) ∨
    (s.phase = .gateSet ∧ t = gateSet bus pos false s) := by
  simp only [exec, execPeriphDisable] at h
  split at h <;> simp_all [eq_comm]

/-! ### The writing phases -/

/-- CLK_SET rejects or writes the enable bit (R120, R121, R122). -/
theorem clkSet_cases (src : Nat) (on : Bool) (s : State) :
    (sourceOfId src = none ∧ clkSet src on s = s.finish .invalidParameter) ∨
    (∃ c, sourceOfId src = some c ∧
      clkSet src on s = (s.writeBit .cr (onBit s.cfg c) on).enterWait .clkWait) := by
  unfold clkSet
  cases h : sourceOfId src <;> simp [State.raise]

/-- SYS_SET rejects or writes SW (R130). -/
theorem sysSet_cases (val : Nat) (s : State) :
    (3 < val ∧ sysSet val s = s.finish .invalidParameter) ∨
    (val ≤ 3 ∧ sysSet val s = (s.writeField .cfgr swLo (BitVec.ofNat 2 val)).enterWait .sysWait) := by
  unfold sysSet sysclkCode
  by_cases h : val > 3
  · simp [h, State.raise]
  · simp [h, show val ≤ 3 by omega]

/-- BYP_SET rejects or writes HSEBYP (R140). -/
theorem bypSet_cases (val : Nat) (s : State) :
    (1 < val ∧ bypSet val s = s.finish .invalidParameter) ∨
    (val ≤ 1 ∧ bypSet val s = (s.writeBit .cr hseBypBit (val == 1)).finish .ok) := by
  unfold bypSet bypassBit
  by_cases h : val > 1
  · simp [h, State.raise]
  · simp [h, show val ≤ 1 by omega]

/-- The PLL source is legal exactly up to 1 (R152). -/
theorem pllSourceBit_eq (src : Nat) :
    pllSourceBit src = if src ≤ 1 then some (decide (src = 1)) else none := by
  match src with
  | 0 => rfl
  | 1 => rfl
  | n + 2 => simp [pllSourceBit]

/-- PLL_SRC rejects or writes PLLSRC (R152). -/
theorem pllSource_cases (src : Nat) (s : State) :
    (1 < src ∧ pllSource src s = s.finish .invalidParameter) ∨
    (src ≤ 1 ∧ pllSource src s = (s.writeBit .pllcfgr pllSrcBit (decide (src = 1))).goto .pllChkN) := by
  unfold pllSource
  rw [pllSourceBit_eq]
  by_cases h : src ≤ 1
  · simp [h]
  · simp [h, State.raise, show 1 < src by omega]

/-- PLL_CHK_N (R153). -/
theorem pllCheckN_cases (n : Nat) (s : State) :
    ((50 ≤ n ∧ n ≤ 432) ∧ pllCheckN n s = s.goto .pllChkM) ∨
    (¬ (50 ≤ n ∧ n ≤ 432) ∧ pllCheckN n s = s.finish .invalidParameter) := by
  unfold pllCheckN nInRange
  by_cases h : 50 ≤ n ∧ n ≤ 432
  · simp [h]
  · right; refine ⟨h, ?_⟩; simp [State.raise]; omega

/-- PLL_CHK_M (R154). -/
theorem pllCheckM_cases (m : Nat) (s : State) :
    ((2 ≤ m ∧ m ≤ 63) ∧ pllCheckM m s = s.goto .pllMn) ∨
    (¬ (2 ≤ m ∧ m ≤ 63) ∧ pllCheckM m s = s.finish .invalidParameter) := by
  unfold pllCheckM mInRange
  by_cases h : 2 ≤ m ∧ m ≤ 63
  · simp [h]
  · right; refine ⟨h, ?_⟩; simp [State.raise]; omega

/-- PLL_P rejects or writes PLLP (R156). -/
theorem pllWriteCode_cases (m p : Nat) (s : State) :
    (pcode (dividerOf s.cfg.pSource m p) = none ∧
      pllWriteCode m p s = s.finish .invalidParameter) ∨
    (∃ code, pcode (dividerOf s.cfg.pSource m p) = some code ∧
      pllWriteCode m p s = (s.writeField .pllcfgr pllPLo code).goto .pllOn) := by
  unfold pllWriteCode
  cases h : pcode (dividerOf s.cfg.pSource m p) <;> simp [State.raise]

/-- GATE_SET rejects or writes the gate bit (R170, R171). -/
theorem gateSet_cases (bus : Bus) (pos : Nat) (on : Bool) (s : State) :
    (31 < pos ∧ gateSet bus pos on s = s.finish .invalidParameter) ∨
    (pos ≤ 31 ∧ gateSet bus pos on s = (s.writeBit (.enr bus) pos on).finish .ok) := by
  unfold gateSet gatePosition
  by_cases h : pos > 31
  · simp [h, State.raise]
  · simp [h, show pos ≤ 31 by omega]

/-! ### The controller and the schedule -/

/-- What a controller step does (R102, R104). -/
theorem controllerStep_cases {s t : State} (h : controllerStep s = .next t) :
    (s.phase = .idle ∧ t = s) ∨
    (s.phase ≠ .idle ∧ ∃ i, Runs s i ∧ exec i s = .next t) ∨
    (s.phase = .decode ∧ (∃ w e, s.cmd = some w ∧ decode w = .error e) ∧
      t = s.finish .illegalCommand) := by
  unfold controllerStep at h
  by_cases hp : s.phase = .idle
  · simp_all
  · rw [if_neg hp] at h
    cases hc : s.cmd with
    | none => simp [hc] at h
    | some w =>
      simp only [hc] at h
      cases hd : decode w with
      | ok i =>
        rw [hd] at h
        exact .inr (.inl ⟨hp, i, ⟨w, hc, hd⟩, h⟩)
      | error e =>
        rw [hd] at h
        by_cases hq : s.phase = .decode
        · simp [hq, State.raise] at h
          exact .inr (.inr ⟨hq, ⟨w, e, hc ▸ rfl, hd⟩, h.symm⟩)
        · simp [hq] at h

/-- What a step does: one move of one agent (10_state.md R20). `u` is the state without the move
that was taken. -/
theorem step_cases {s t : State} (h : step s = .next t) :
    (controllerStep s = .next t ∧ resetIsNext s = false) ∨
    ∃ rest m, s.schedule = m :: rest ∧
      (let u : State := { s with schedule := rest }
       (m = .controller ∧ controllerStep u = .next t) ∨
       (∃ c, m = .envReady c ∧ t = u.envReady c) ∨
       (m = .envSwitch ∧ t = u.envSwitch) ∨
       (∃ w, m = .issue w ∧ s.busy = false ∧ t = u.issueWord w) ∨
       (∃ a n, m = .readRegister a n ∧ t = u.hostRead a n) ∨
       (m = .readStatus ∧ t = u.hostStatus) ∨
       (m = .reset ∧ t = u.assertReset)) := by
  unfold step agentStep at h
  cases hs : s.schedule with
  | nil => rw [hs] at h; exact .inl ⟨h, by simp [resetIsNext, hs]⟩
  | cons m rest =>
    rw [hs] at h
    cases m with
    | controller => exact .inr ⟨rest, _, rfl, .inl ⟨rfl, h⟩⟩
    | envReady c => exact .inr ⟨rest, _, rfl, .inr (.inl ⟨c, rfl, by simpa [eq_comm] using h⟩)⟩
    | envSwitch =>
      exact .inr ⟨rest, _, rfl, .inr (.inr (.inl ⟨rfl, by simpa [eq_comm] using h⟩))⟩
    | issue w =>
      cases hb : s.busy with
      | true =>
        simp only [hb, if_true] at h
        exact .inl ⟨h, by simp [resetIsNext, hs]⟩
      | false =>
        simp [hb] at h
        exact .inr ⟨rest, _, rfl, .inr (.inr (.inr (.inl ⟨w, rfl, rfl, h.symm⟩)))⟩
    | readRegister a n =>
      exact .inr ⟨rest, _, rfl, .inr (.inr (.inr (.inr (.inl ⟨a, n, rfl, by simpa [eq_comm] using h⟩))))⟩
    | readStatus =>
      exact .inr ⟨rest, _, rfl,
        .inr (.inr (.inr (.inr (.inr (.inl ⟨rfl, by simpa [eq_comm] using h⟩)))))⟩
    | reset =>
      exact .inr ⟨rest, _, rfl,
        .inr (.inr (.inr (.inr (.inr (.inr ⟨rfl, by simpa [eq_comm] using h⟩)))))⟩

end Sys2Proof.Machine
end

