-- ==== Sys2Proof/Laws/Decode.lean ====
section
/-! SUPPORT. The decoder and the encoder bit by bit (30_encoding.md R82 to R92). -/

namespace Sys2Proof

/-- Two words with the same 32 bits are equal. -/
theorem word_ext (a b : Word) (h : ∀ j, j < 32 → a.getLsbD j = b.getLsbD j) : a = b :=
  BitVec.eq_of_getLsbD_eq (fun j hj => h j hj)

/-- A field of a word is the value whose bits stand there. -/
theorem fieldOf_eq {n : Nat} (w : Word) (lo : Nat) (v : BitVec n)
    (h : ∀ j, j < n → w.getLsbD (lo + j) = v.getLsbD j) : fieldOf w lo n = v.toNat := by
  unfold fieldOf
  congr 1
  apply BitVec.eq_of_getLsbD_eq
  intro j hj
  rw [BitVec.getLsbD_extractLsb']
  simp [hj, h]

/-- The bits of a field's value. -/
theorem testBit_fieldOf (w : Word) (lo n k : Nat) :
    (fieldOf w lo n).testBit k = (decide (k < n) && w.getLsbD (lo + k)) := by
  unfold fieldOf
  rw [BitVec.testBit_toNat, BitVec.getLsbD_extractLsb']

/-- A field of `n` bits is below 2^n. -/
theorem fieldOf_lt (w : Word) (lo n : Nat) : fieldOf w lo n < 2 ^ n := by
  unfold fieldOf
  exact BitVec.isLt _

/-- The bits of a placed field. -/
theorem getLsbD_placeField (lo n v j : Nat) : (placeField lo n v).getLsbD j =
    (decide (lo ≤ j ∧ j < lo + n ∧ j < 32) && v.testBit (j - lo)) := by
  unfold placeField
  simp only [BitVec.getLsbD_shiftLeft, BitVec.getLsbD_setWidth, BitVec.getLsbD_ofNat]
  by_cases h1 : lo ≤ j
  · by_cases h2 : j < lo + n <;> by_cases h3 : j < 32 <;>
      simp [h1, h2, h3, show j - lo < n ↔ j < lo + n by omega, show ¬ j < lo by omega]
    omega
  · simp [h1, show j < lo by omega]

/-- R90's selection as an equation. -/
theorem selects_iff (r : OpcodeRow) (w : Word) : r.selects w = true ↔ w &&& r.mask = r.pattern := by
  simp [OpcodeRow.selects]

/-- Where a row's mask is 1, a word that selects the row has the row's bit. -/
theorem masked_bit {w m p : Word} (h : w &&& m = p) (j : Nat) (hm : m.getLsbD j = true) :
    w.getLsbD j = p.getLsbD j := by
  rw [← h]
  simp [hm]

/-- A word that selects a row has that row's opcode. -/
theorem selects_opcode (w : Word) (op : Opcode) (h : w &&& (rowOf op).mask = (rowOf op).pattern) :
    opcodeOfNat (fieldOf w 0 4) = some op := by
  have e : fieldOf w 0 4 = fieldOf (rowOf op).pattern 0 4 := by
    apply Nat.eq_of_testBit_eq
    intro k
    rw [testBit_fieldOf, testBit_fieldOf]
    by_cases hk : k < 4
    · rw [masked_bit h (0 + k) (by cases op <;> (interval_cases k <;> rfl))]
    · simp [hk]
  rw [e]
  cases op <;> rfl

/-- What a decoded word looks like. -/
theorem decode_ok_cases {w : Word} {i : Instr} (h : decode w = .ok i) :
    ∃ op, opcodeOfNat (fieldOf w 0 4) = some op ∧
      w &&& (rowOf op).mask = (rowOf op).pattern ∧ i = operandsOf w op := by
  unfold decode at h
  split at h
  · simp at h
  · rename_i op hop
    split at h
    · rename_i hs
      exact ⟨op, hop, (selects_iff _ _).1 hs, by simpa [eq_comm] using h⟩
    · simp at h

/-- The opcode nibble names an opcode exactly when it is 1 to 7 (R81, R91). -/
theorem opcodeOfNat_cases (w : Word) :
    (∃ op, opcodeOfNat (fieldOf w 0 4) = some op ∧ 1 ≤ fieldOf w 0 4 ∧ fieldOf w 0 4 ≤ 7) ∨
    (opcodeOfNat (fieldOf w 0 4) = none ∧ (fieldOf w 0 4 = 0 ∨ 8 ≤ fieldOf w 0 4)) := by
  have := fieldOf_lt w 0 4
  generalize fieldOf w 0 4 = k at *
  interval_cases k <;> simp [opcodeOfNat]

theorem rowOf_mem (op : Opcode) : rowOf op ∈ opcodeTable := by cases op <;> simp [opcodeTable]

theorem mem_rowOf {r : OpcodeRow} (h : r ∈ opcodeTable) : ∃ op, r = rowOf op := by
  simp [opcodeTable] at h
  rcases h with h | h | h | h | h | h | h <;> exact ⟨_, h⟩

@[simp] theorem rowOf_op (op : Opcode) : (rowOf op).op = op := by cases op <;> rfl

@[simp] theorem opcodeOf_operandsOf (w : Word) (op : Opcode) : opcodeOf (operandsOf w op) = op := by
  cases op <;> rfl

theorem busOfNat_busCode (b : Bus) : busOfNat (busCode b) = b := by cases b <;> rfl

theorem busCode_busOfNat (k : Nat) (h : k < 4) : busCode (busOfNat k) = k := by
  interval_cases k <;> rfl

end Sys2Proof
end

