-- ==== Sys2Proof/Laws/PerInstr.lean ====
section
/-! SUPPORT. A law of the syntax, one lemma for each command: the encoder's word selects the row of
the command's opcode in the map of 30_encoding.md R90, so that its opcode is the command's and its
reserved bits are 0 (R92). -/

namespace Sys2Proof

/-- The word of `i` selects the row of `i`'s opcode. -/
def Laws.EncodeSelectsRow.Statement (i : Instr) : Prop :=
  (rowOf (opcodeOf i)).selects (encode i) = true

theorem Laws.EncodeSelectsRow.clkEnable (src : Nat) :
    Laws.EncodeSelectsRow.Statement (.clkEnable src) := by
  rw [Laws.EncodeSelectsRow.Statement, selects_iff]
  apply word_ext
  intro j hj
  simp only [encode, encodeSrc, opcodeOf, rowOf, BitVec.getLsbD_and, BitVec.getLsbD_or,
    getLsbD_placeField, BitVec.getLsbD_ofNat]
  interval_cases j <;> simp [Nat.testBit]

theorem Laws.EncodeSelectsRow.clkDisable (src : Nat) :
    Laws.EncodeSelectsRow.Statement (.clkDisable src) := by
  rw [Laws.EncodeSelectsRow.Statement, selects_iff]
  apply word_ext
  intro j hj
  simp only [encode, encodeSrc, opcodeOf, rowOf, BitVec.getLsbD_and, BitVec.getLsbD_or,
    getLsbD_placeField, BitVec.getLsbD_ofNat]
  interval_cases j <;> simp [Nat.testBit]

theorem Laws.EncodeSelectsRow.sysclkSelect (val : Nat) :
    Laws.EncodeSelectsRow.Statement (.sysclkSelect val) := by
  rw [Laws.EncodeSelectsRow.Statement, selects_iff]
  apply word_ext
  intro j hj
  simp only [encode, encodeVal, opcodeOf, rowOf, BitVec.getLsbD_and, BitVec.getLsbD_or,
    getLsbD_placeField, BitVec.getLsbD_ofNat]
  interval_cases j <;> simp [Nat.testBit]

theorem Laws.EncodeSelectsRow.hseBypass (val : Nat) :
    Laws.EncodeSelectsRow.Statement (.hseBypass val) := by
  rw [Laws.EncodeSelectsRow.Statement, selects_iff]
  apply word_ext
  intro j hj
  simp only [encode, encodeVal, opcodeOf, rowOf, BitVec.getLsbD_and, BitVec.getLsbD_or,
    getLsbD_placeField, BitVec.getLsbD_ofNat]
  interval_cases j <;> simp [Nat.testBit]

theorem Laws.EncodeSelectsRow.pllConfig (src m n p : Nat) :
    Laws.EncodeSelectsRow.Statement (.pllConfig src m n p) := by
  rw [Laws.EncodeSelectsRow.Statement, selects_iff]
  apply word_ext
  intro j hj
  simp only [encode, encodePll, opcodeOf, rowOf, BitVec.getLsbD_and, BitVec.getLsbD_or,
    getLsbD_placeField, BitVec.getLsbD_ofNat]
  interval_cases j <;> simp [Nat.testBit]

theorem Laws.EncodeSelectsRow.periphEnable (bus : Bus) (pos : Nat) :
    Laws.EncodeSelectsRow.Statement (.periphEnable bus pos) := by
  rw [Laws.EncodeSelectsRow.Statement, selects_iff]
  apply word_ext
  intro j hj
  simp only [encode, encodeGate, opcodeOf, rowOf, BitVec.getLsbD_and, BitVec.getLsbD_or,
    getLsbD_placeField, BitVec.getLsbD_ofNat]
  interval_cases j <;> simp [Nat.testBit]

theorem Laws.EncodeSelectsRow.periphDisable (bus : Bus) (pos : Nat) :
    Laws.EncodeSelectsRow.Statement (.periphDisable bus pos) := by
  rw [Laws.EncodeSelectsRow.Statement, selects_iff]
  apply word_ext
  intro j hj
  simp only [encode, encodeGate, opcodeOf, rowOf, BitVec.getLsbD_and, BitVec.getLsbD_or,
    getLsbD_placeField, BitVec.getLsbD_ofNat]
  interval_cases j <;> simp [Nat.testBit]

end Sys2Proof
end

