-- ==== Sys2Proof/Laws/Progress.lean ====
section
/-! SUPPORT. Lemmas about the invariant's parts: the latched command is one command, what a command
has written so far depends on few fields, and what a failed poll is in each command. -/

namespace Sys2Proof.Machine

/-- `WAIT_BOUND` = k is at least 1 (00_scope.md R8). -/
theorem waitBound_pos {p : Params} (h : p.Legal) {k : Nat} (hk : p.waitBound = some k) : 0 < k := by
  have h0 := h.waitBound
  rw [hk] at h0
  have : k ≠ 0 := fun e => h0 (by rw [e])
  omega

/-- The latch holds one command. -/
theorem runs_unique {s : State} {i j : Instr} (h1 : Runs s i) (h2 : Runs s j) : i = j := by
  obtain ⟨w, hw, hd⟩ := h1
  obtain ⟨v, hv, he⟩ := h2
  rw [hw] at hv
  cases hv
  rw [hd] at he
  cases he
  rfl

theorem runs_of_cmd {s t : State} {i : Instr} (hr : Runs s i) (h : t.cmd = s.cmd) : Runs t i := by
  unfold Runs
  rw [h]
  exact hr

/-- `wait_count` = 0 is in range in every phase. -/
theorem waitCountInRange_zero (t : State) (hl : t.cfg.Legal) (h : t.waitCount = 0) :
    WaitCountInRange t :=
  ⟨fun k hk => by have := waitBound_pos hl hk; omega, fun _ => h, fun _ => h⟩

/-- A command's progress depends on the phase, the enable bits, the PLL's ready bit, SW and
PLLCFGR only. -/
theorem progress_mono {i : Instr} {s t : State} (hph : t.phase = s.phase) (hcfg : t.cfg = s.cfg)
    (hon : ∀ c, t.isOn c = s.isOn c) (hrdy : PllIsOff s → t.isReady .pll = false)
    (hsw : t.sw = s.sw) (hpl : t.pllcfgr = s.pllcfgr) (h : Progress i s) : Progress i t := by
  have off : PllIsOff s → PllIsOff t := fun h => ⟨by rw [hon]; exact h.off, hrdy h⟩
  have src : ∀ k, SourceWritten k s → SourceWritten k t := fun k h => ⟨h.legal, by
    unfold State.pllSrc; rw [hpl]; exact h.written⟩
  have fac : ∀ m n, FactorsWritten m n s → FactorsWritten m n t := fun m n h => ⟨by
    unfold State.pllM; rw [hpl]; exact h.mWritten, by unfold State.pllN; rw [hpl]; exact h.nWritten⟩
  have cod : ∀ m p, CodeWritten m p s → CodeWritten m p t := fun m p h => by
    unfold CodeWritten State.pllP; rw [hpl, hcfg]; exact h
  cases i with
  | pllConfig k m n p =>
    simp only [Progress, hph] at *
    revert h
    cases s.phase <;> simp only [PllProgress, hon] <;> intro h
    all_goals first
      | trivial
      | exact h
      | exact off h
      | exact ⟨off h.1, src _ h.2⟩
      | exact ⟨off h.1, src _ h.2.1, h.2.2⟩
      | exact ⟨off h.1, src _ h.2.1, h.2.2.1, fac _ _ h.2.2.2⟩
      | exact ⟨off h.1, src _ h.2.1, h.2.2.1, fac _ _ h.2.2.2.1, cod _ _ h.2.2.2.2⟩
      | exact ⟨h.1, src _ h.2.1, h.2.2.1, fac _ _ h.2.2.2.1, cod _ _ h.2.2.2.2⟩
  | _ => simpa only [Progress, hph, hon, hsw] using h

/-- The invariant of a state in which command `i` runs. -/
theorem stateInv_of_progress (t : State) (i : Instr) (hl : t.cfg.Legal) (hb : t.busy = true)
    (hr : Runs t i) (hp : t.phase ≠ .idle) (hw : WaitCountInRange t)
    (hg : t.phase ≠ .decode → Progress i t) : StateInv t where
  legal := hl
  busyIff := by simp [hb, hp]
  cmdIff := by obtain ⟨w, hw, _⟩ := hr; simp [hw, hp]
  waitCount := hw
  progress := fun _ h => ⟨i, hr, hg h⟩

/-- The invariant of a state in which no command runs. -/
theorem stateInv_of_idle (t : State) (hl : t.cfg.Legal) (hb : t.busy = false)
    (hc : t.cmd = none) (hp : t.phase = .idle) (hw : t.waitCount = 0) : StateInv t where
  legal := hl
  busyIff := by simp [hb, hp]
  cmdIff := by simp [hc, hp]
  waitCount := waitCountInRange_zero t hl hw
  progress := fun h => absurd hp h

/-- A controller step in a wait phase whose condition is false is a failed poll. -/
theorem exec_failedPoll (i : Instr) (s : State) (hw : waitCond i s = some false) :
    exec i s = .next s.failedPoll := by
  cases i with
  | clkEnable src =>
    cases hp : s.phase <;> simp [waitCond, hp] at hw
    obtain ⟨c, h1, h2⟩ := hw
    simp [exec, execClkEnable, hp, clkWait, h1, State.waitUntil, h2]
  | clkDisable src =>
    cases hp : s.phase <;> simp [waitCond, hp] at hw
    obtain ⟨c, h1, h2⟩ := hw
    simp [exec, execClkDisable, hp, clkWait, h1, State.waitUntil, h2]
  | sysclkSelect v =>
    cases hp : s.phase <;> simp [waitCond, hp] at hw
    simp [exec, execSysclkSelect, hp, sysWait, State.waitUntil, hw]
  | pllConfig a b c d =>
    cases hp : s.phase <;> simp [waitCond, hp] at hw
    all_goals simp [exec, execPllConfig, hp, pllOffWait, pllOnWait, State.waitUntil, hw]
  | _ => simp [waitCond] at hw

/-- An id names no source exactly when it is above 4 (R86, R122). -/
theorem sourceOfId_none (src : Nat) : sourceOfId src = none ↔ src > 4 := by
  match src with
  | 0 | 1 | 2 | 3 | 4 => simp [sourceOfId]
  | n + 5 => simp [sourceOfId]

/-- The dividers with no code (R158). -/
theorem pcode_none (d : Nat) : pcode d = none ↔ d ∉ [2, 4, 6, 8] := by
  unfold pcode
  split <;> simp_all

/-- The divider of the command is M or P (R9, R156). -/
theorem dividerOf_eq (q : PSource) (m p : Nat) :
    dividerOf q m p = if q = .fromM then m else p := by
  cases q <;> simp [dividerOf]

/-- A gate after the write of a gate bit (R31, R32). -/
theorem gate_writeBit (s : State) (b : Bus) (pos : Nat) (v : Bool) (hq : pos ≤ 31) (b' : Bus)
    (j : Nat) : gate (s.writeBit (.enr b) pos v) b' j =
      if b' = b ∧ j = pos then v else gate s b' j := by
  cases b <;> cases b' <;>
    simp [gate, State.writeBit, State.writeField, State.setReg, State.reg, busSet, busGet] <;>
    (by_cases h : j = pos <;> simp [h]; try (intro h2; omega))

/-! ### Runs of several steps -/

/-- A run in two parts. -/
theorem stepN_add {a b : Nat} {s u : State} (h : stepN a s = .next u) :
    stepN (a + b) s = stepN b u := by
  induction a generalizing s with
  | zero => cases h; simp
  | succ a ih =>
    rw [Nat.add_right_comm]
    simp only [stepN] at h ⊢
    split at h
    · exact ih h
    · simp at h
    · simp at h

/-- A run of a step more. -/
theorem stepN_snoc {n : Nat} {s t u : State} (h : stepN n s = .next t) (h2 : step t = .next u) :
    stepN (n + 1) s = .next u := by
  rw [stepN_add h]
  simp [stepN, h2]

end Sys2Proof.Machine
end

