-- ==== Sys2Proof/Tests/Slice0.lean ====
section
/-! SUPPORT. Tests: the smoke test of WellFormed, words written out from the encodings of
30_encoding.md, single steps from the vectors of 95_test_vectors.md, and for each statement with
hypotheses a witness that meets them (theorems named `witness_…`). -/

open Sys2Proof Sys2Proof.Machine

namespace Sys2Proof.Tests

/-! ### WellFormed: an ill-formed term for each check (R83, R84, R85, R87) -/

theorem test_illformed_clkEnable : (Instr.clkEnable 8).wellFormed = false := by decide
theorem test_illformed_clkDisable : (Instr.clkDisable 8).wellFormed = false := by decide
theorem test_illformed_sysclkSelect : (Instr.sysclkSelect 256).wellFormed = false := by decide
theorem test_illformed_hseBypass : (Instr.hseBypass 256).wellFormed = false := by decide
theorem test_illformed_pllConfig_src : (Instr.pllConfig 8 2 50 2).wellFormed = false := by decide
theorem test_illformed_pllConfig_m : (Instr.pllConfig 0 256 50 2).wellFormed = false := by decide
theorem test_illformed_pllConfig_n : (Instr.pllConfig 0 2 1024 2).wellFormed = false := by decide
theorem test_illformed_pllConfig_p : (Instr.pllConfig 0 2 50 16).wellFormed = false := by decide
theorem test_illformed_periphEnable : (Instr.periphEnable .bus0 64).wellFormed = false := by decide
theorem test_illformed_periphDisable : (Instr.periphDisable .bus3 64).wellFormed = false := by
  decide

/-! ### Decode: one word for each command, its fields in the order of R83, R84, R85 and R87 -/

theorem test_decode_clkEnable :
    decode (0#25 ++ 0b100#3 ++ 0b0001#4) = .ok (.clkEnable 4) := by rfl
theorem test_decode_clkDisable :
    decode (0#25 ++ 0b011#3 ++ 0b0010#4) = .ok (.clkDisable 3) := by rfl
theorem test_decode_sysclkSelect :
    decode (0#20 ++ 0b10000001#8 ++ 0b0011#4) = .ok (.sysclkSelect 129) := by rfl
theorem test_decode_hseBypass :
    decode (0#20 ++ 0b00000001#8 ++ 0b0100#4) = .ok (.hseBypass 1) := by rfl
theorem test_decode_pllConfig :
    decode (0#3 ++ 0b1010#4 ++ 0b1100000001#10 ++ 0b10100110#8 ++ 0b001#3 ++ 0b0101#4) =
      .ok (.pllConfig 1 166 769 10) := by rfl
theorem test_decode_periphEnable :
    decode (0#20 ++ 0b100001#6 ++ 0b10#2 ++ 0b0110#4) = .ok (.periphEnable .bus2 33) := by rfl
theorem test_decode_periphDisable :
    decode (0#20 ++ 0b011111#6 ++ 0b01#2 ++ 0b0111#4) = .ok (.periphDisable .bus1 31) := by rfl

/-- 95_test_vectors.md W4. -/
theorem test_encode_pllConfig : encode (.pllConfig 0 2 50 2) = 0x04190105#32 := by decide
/-- 95_test_vectors.md section 2.6. -/
theorem test_encode_periphDisable : encode (.periphDisable .bus2 31) = 0x000007E7#32 := by decide
/-- 95_test_vectors.md section 2.1: CLK_ENABLE with bit 7 set. -/
theorem test_decode_reserved_bit : decode 0x00000091#32 = .error .reservedBits := by rfl

/-! ### The command language (R95, R96; the lines of 95_test_vectors.md) -/

theorem test_assemble_clkEnable : (assembleLine "CLK_ENABLE HSE").map encode = some 0x11#32 := by
  decide
theorem test_assemble_pllConfig :
    (assembleLine "PLL_CONFIG HSI, M=#2, N=#433, P=#2").map encode = some 0x04D88105#32 := by decide
theorem test_assemble_pllConfigLit :
    (assembleLine "PLL_CONFIG_LIT HSE, M=#8, N=#336").map encode = some 0x00A80415#32 := by decide
theorem test_assemble_periphEnable :
    (assembleLine "PERIPH_ENABLE BUS2, #32").map encode = some 0x00000826#32 := by decide
/-- The same number in hexadecimal, with a letter, and grouped digits (00_scope.md R11). -/
theorem test_assemble_hex :
    (assembleLine "PERIPH_DISABLE BUS2, #0x1F").map encode = some 0x000007E7#32 ∧
    (assembleLine "PERIPH_DISABLE BUS2, #3_1").map encode = some 0x000007E7#32 ∧
    assembleLine "PERIPH_DISABLE BUS2, #1F" = none := by decide

/-! ### States -/

/-- S0 of 95_test_vectors.md: the reset state with HSICAL = 0. -/
def s0 : State where
  cr := 0x00000083#32
  cfgr := 0#32
  pllcfgr := 0x24003010#32
  enr := Params.suggested.enrReset
  phase := .idle
  cmd := none
  busy := false
  lastStatus := none
  waitCount := 0
  faults := []
  cfg := Params.suggested
  schedule := []
  response := none
  resets := 0

/-- S0 with a command in a phase. -/
def mid (ph : Phase) (w : Word) : State := { s0 with phase := ph, cmd := some w, busy := true }

/-- The same with `P_SOURCE = FROM_P`. -/
def fromP (s : State) : State := { s with cfg := { s.cfg with pSource := .fromP } }

/-- The same with `WAIT_BOUND = k`. -/
def bound (k : Nat) (s : State) : State := { s with cfg := { s.cfg with waitBound := some k } }

/-- The same with moves scheduled. -/
def moves (l : List Move) (s : State) : State := { s with schedule := l }

/-- What one step leaves, as seen by `f`. -/
def after {α : Type} (s : State) (f : State → α) : Option α :=
  match step s with
  | .next t => some (f t)
  | _ => none

theorem suggested_legal : Params.suggested.Legal := by
  constructor
  any_goals decide
  all_goals constructor <;> decide

/-- A bounded wait is legal. -/
theorem bound_legal (k : Nat) (h : k ≠ 0) : { Params.suggested with waitBound := some k }.Legal where
  waitBound := by simpa using h
  plli2s := suggested_legal.plli2s
  pllsai := suggested_legal.pllsai
  disjoint := suggested_legal.disjoint
  base := suggested_legal.base
  offset0 := suggested_legal.offset0
  offset1 := suggested_legal.offset1
  offset2 := suggested_legal.offset2
  offset3 := suggested_legal.offset3
  distinct := suggested_legal.distinct

theorem s0_inv : StateInv s0 := stateInv_of_idle s0 suggested_legal rfl rfl rfl rfl

/-- The invariant of a state in the middle of a command, with `wait_count` = 0. -/
theorem mid_inv (t : State) (i : Instr) (hl : t.cfg.Legal) (hb : t.busy = true) (hr : Runs t i)
    (hp : t.phase ≠ .idle) (hw : t.waitCount = 0) (hg : Progress i t) : StateInv t :=
  stateInv_of_progress t i hl hb hr hp (waitCountInRange_zero t hl hw) (fun _ => hg)

/-! ### Reset and single steps (the values of 95_test_vectors.md) -/

theorem test_reset_pllcfgr : State.reset.pllcfgr = 0x24003010#32 := by decide
theorem test_reset_cfgr : State.reset.cfgr = 0#32 := by decide
theorem test_reset_cr_s0 : resetCr Params.suggested 0#8 = 0x00000083#32 := by decide
theorem test_fetch_first_step :
    after (State.reset.withFetchWord 32 0x11) (fun t => t.phase) = some .clkSet := by rfl

theorem test_clkEnable_sets_pllsai :
    after (mid .clkSet 0x41#32) (fun t => t.cr) = some 0x10000083#32 := by decide
theorem test_clkEnable_rejects_5 :
    after (mid .clkSet 0x51#32) (fun t => (t.lastStatus, t.cr)) =
      some (some .invalidParameter, 0x00000083#32) := by decide
theorem test_clkDisable_clears_hsi :
    after (mid .clkSet 0x02#32) (fun t => (t.phase, t.cr)) = some (.clkWait, 0x00000082#32) := by
  decide
theorem test_clkDisable_times_out :
    after (bound 1 (mid .clkWait 0x02#32)) (fun t => (t.lastStatus, t.cr)) =
      some (some .hardwareTimeout, 0x00000083#32) := by decide
theorem test_sysclkSelect_3 :
    after (mid .sysSet 0x33#32) (fun t => (t.phase, t.cfgr)) = some (.sysWait, 0x00000003#32) := by
  decide
theorem test_sysclkSelect_4 :
    after (mid .sysSet 0x43#32) (fun t => (t.lastStatus, t.cfgr)) =
      some (some .invalidParameter, 0#32) := by decide
theorem test_hseBypass_1 :
    after (mid .bypSet 0x14#32) (fun t => (t.lastStatus, t.cr)) = some (some .ok, 0x00040083#32) := by
  decide
theorem test_hseBypass_255 :
    after (mid .bypSet 0xFF4#32) (fun t => (t.lastStatus, t.cr)) =
      some (some .invalidParameter, 0x00000083#32) := by decide
theorem test_pllConfig_factors :
    after (mid .pllMn 0x04D81F85#32) (fun t => t.pllcfgr) = some 0x24006C3F#32 := by decide
theorem test_pllConfig_code :
    after { mid .pllP 0x0C320305#32 with pllcfgr := 0x24001906#32 } (fun t => t.pllcfgr) =
      some 0x24021906#32 := by decide
theorem test_periphEnable_31 :
    after (mid .gateSet 0x7C6#32) (fun t => (t.lastStatus, t.enr.bus0)) =
      some (some .ok, 0x80100000#32) := by decide
theorem test_periphEnable_32 :
    after (mid .gateSet 0x806#32) (fun t => (t.lastStatus, t.enr.bus0)) =
      some (some .invalidParameter, 0x00100000#32) := by decide
theorem test_periphDisable_20 :
    after (mid .gateSet 0x507#32) (fun t => (t.lastStatus, t.enr.bus0)) = some (some .ok, 0#32) := by
  decide
theorem test_periphDisable_bus2 :
    after (mid .gateSet 0x7E7#32) (fun t => (t.lastStatus, t.enr.bus0, t.enr.bus2)) =
      some (some .ok, 0x00100000#32, 0#32) := by decide
/-- Section 2.7. -/
theorem test_read_enr0 :
    after (moves [.readRegister 0x40023830#32 4] s0) (fun t => (t.response, t.faults)) =
      some (some (.data 0x00100000#32), []) := by decide
/-- Section 2.7. -/
theorem test_read_unmapped :
    after (moves [.readRegister 0x4002380C#32 4] s0) (fun t => (t.response, t.faults)) =
      some (none, [.unmappedRead 0x4002380C#32 4]) := by decide

/-! ### Witnesses: encoding -/

theorem witness_DecodeOfEncode :
    (Instr.clkEnable 7).wellFormed = true ∧ (Instr.sysclkSelect 255).wellFormed = true ∧
    (Instr.pllConfig 7 255 1023 15).wellFormed = true ∧
    (Instr.periphEnable .bus3 63).wellFormed = true := by decide

theorem witness_EncodeOfDecode : decode 0x06190105#32 = .ok (.pllConfig 0 2 50 3) := by rfl

/-- Each alternative of EveryWordSelectsOneRowOrIsIllegal at the ends of its opcode range. -/
theorem witness_EveryWordSelectsOneRowOrIsIllegal :
    (rowOf .periphDisable).selects 0xFF7#32 = true ∧
    (fieldOf 0x10#32 0 4 = 0 ∧ decode 0x10#32 = .error .reservedOpcode) ∧
    (fieldOf 0x8#32 0 4 = 8 ∧ decode 0x8#32 = .error .reservedOpcode) ∧
    (fieldOf 0x81#32 0 4 = 1 ∧ decode 0x81#32 = .error .reservedBits) ∧
    (fieldOf 0x1007#32 0 4 = 7 ∧ decode 0x1007#32 = .error .reservedBits) := by
  refine ⟨by decide, ⟨by decide, rfl⟩, ⟨by decide, rfl⟩, ⟨by decide, rfl⟩, ⟨by decide, rfl⟩⟩

theorem witness_PcodeInvertsDivider : pcode 2 = some 0#2 ∧ pcode 8 = some 3#2 := by decide

/-! ### Witnesses: the step and the agents -/

theorem witness_StepRunsDecodedCommand :
    let s := mid .clkSet 0x11#32
    s.phase ≠ .idle ∧ s.cmd = some 0x11#32 ∧ decode 0x11#32 = .ok (.clkEnable 1) ∧
      (Instr.clkEnable 1).wellFormed = true ∧ s.schedule = [] ∧
      (moves [.controller] s).schedule = .controller :: [] ∧
      ((moves [.issue 0x12#32] s).schedule = .issue 0x12#32 :: [] ∧ s.busy = true) := by
  refine ⟨by decide, rfl, rfl, by decide, rfl, rfl, rfl, rfl⟩

theorem witness_DecodeStepChecksEncoding :
    let s := mid .decode 0x11#32
    let z := mid .decode 0x0#32
    (s.schedule = [] ∧ s.phase = .decode ∧ s.cmd = some 0x11#32 ∧
      (rowOf .clkEnable).selects 0x11#32 = true) ∧
    (z.schedule = [] ∧ z.phase = .decode ∧ z.cmd = some 0x0#32 ∧
      ∀ r ∈ opcodeTable, r.selects 0x0#32 = false) := by decide

/-- Each alternative, with its lowest and its highest bit or value. -/
theorem witness_ReservedWordEndsIllegalCommand :
    let s := mid .decode 0x0#32
    (s.schedule = [] ∧ s.phase = .decode ∧ s.cmd = some 0x0#32) ∧
    fieldOf 0x0#32 0 4 = 0 ∧ 8 ≤ fieldOf 0x8#32 0 4 ∧ 8 ≤ fieldOf 0xF#32 0 4 ∧
    (fieldOf 0x81#32 0 4 = 1 ∧ fieldOf 0x81#32 7 25 ≠ 0) ∧
    (fieldOf 0x80000002#32 0 4 = 2 ∧ fieldOf 0x80000002#32 7 25 ≠ 0) ∧
    (fieldOf 0x1003#32 0 4 = 3 ∧ fieldOf 0x1003#32 12 20 ≠ 0) ∧
    (fieldOf 0x80000007#32 0 4 = 7 ∧ fieldOf 0x80000007#32 12 20 ≠ 0) ∧
    (fieldOf 0x20000005#32 0 4 = 5 ∧ fieldOf 0x20000005#32 29 3 ≠ 0) ∧
    (fieldOf 0x80000005#32 0 4 = 5 ∧ fieldOf 0x80000005#32 29 3 ≠ 0) := by decide

theorem witness_IssueLoadsLatchOnlyWhenIdle :
    ((moves [.issue 0x11#32] s0).schedule = .issue 0x11#32 :: [] ∧ s0.busy = false) ∧
    (moves [.issue 0x11#32] (mid .clkWait 0x12#32)).schedule = .issue 0x11#32 :: [] ∧
      (mid .clkWait 0x12#32).busy = true := by decide

/-- The lowest and the highest register address, a wrong size, and the gap between CFGR and ENR. -/
theorem witness_HostReadReturnsRegisterOrFault :
    s0.cfg.Legal ∧
    ((0x40023800#32).toNat = regAddress s0.cfg .cr ∧
      (0x40023840#32).toNat = regAddress s0.cfg (.enr .bus3)) ∧
    (moves [.readRegister 0x40023800#32 4] s0).schedule = .readRegister 0x40023800#32 4 :: [] ∧
    (moves [.readRegister 0x40023800#32 3] s0).schedule = .readRegister 0x40023800#32 3 :: [] ∧
    ∀ r, (0x4002380C#32).toNat ≠ regAddress s0.cfg r := by
  refine ⟨suggested_legal, by decide, by decide, by decide, fun r => ?_⟩
  cases r with
  | enr b => cases b <;> decide
  | _ => decide

theorem witness_StatusReadReturnsFlags :
    (moves [.readStatus] s0).schedule = .readStatus :: [] := by decide

/-- An enabled ready-bit move of HSE (95_test_vectors.md P1, step 4) and one of PLLSAI, which is off
and still ready. -/
def hseRising : State := { moves [.envReady .hse] s0 with cr := 0x00010083#32 }
def pllsaiFalling : State := { moves [.envReady .pllsai] s0 with cr := 0x20000083#32 }

/-- Both clauses: an enabled move of either direction, and a step that changes the ready bit. -/
theorem witness_EnvReadyCopiesEnableBit :
    (hseRising.cfg.Legal ∧ hseRising.schedule = .envReady .hse :: [] ∧
      hseRising.isReady .hse ≠ hseRising.isOn .hse ∧ resetIsNext hseRising = false ∧
      ∃ t, step hseRising = .next t ∧ t.isReady .hse ≠ hseRising.isReady .hse) ∧
    (pllsaiFalling.cfg.Legal ∧ pllsaiFalling.schedule = .envReady .pllsai :: [] ∧
      pllsaiFalling.isReady .pllsai ≠ pllsaiFalling.isOn .pllsai ∧
      resetIsNext pllsaiFalling = false ∧
      ∃ t, step pllsaiFalling = .next t ∧
        t.isReady .pllsai ≠ pllsaiFalling.isReady .pllsai) :=
  ⟨⟨suggested_legal, rfl, by decide, rfl, _, rfl, by decide⟩,
    ⟨suggested_legal, rfl, by decide, rfl, _, rfl, by decide⟩⟩

/-- An enabled switch to PLLP (95_test_vectors.md P1, step 21). -/
def switching : State := { moves [.envSwitch] s0 with cfgr := 0x00000002#32 }

/-- Both clauses: an enabled move, and a step that changes SWS. -/
theorem witness_EnvSwitchCopiesSelector :
    switching.schedule = .envSwitch :: [] ∧ switching.sws ≠ switching.sw ∧
      resetIsNext switching = false ∧
      ∃ t, step switching = .next t ∧ t.sws ≠ switching.sws :=
  ⟨rfl, by decide, rfl, _, rfl, by decide⟩

theorem witness_DisabledEnvironmentMovesChangeNothing :
    ((moves [.envReady .pllsai] s0).schedule = .envReady .pllsai :: [] ∧
      s0.isReady .pllsai = s0.isOn .pllsai) ∧
    (moves [.envSwitch] s0).schedule = .envSwitch :: [] ∧ s0.sws = s0.sw := by decide

/-! ### Witnesses: reset and the wait primitive -/

theorem witness_ControllerResetValues : s0.phase = .idle := by decide

/-- Legal parameters, the reset move, and an unowned bit of each register, at both ends. -/
theorem witness_ResetMoveRestoresResetState :
    s0.cfg.Legal ∧ (moves [.reset] (mid .pllOn 0x04190105#32)).schedule = .reset :: [] ∧
    (2 ∉ crOwnedBits s0.cfg ∧ 31 ∉ crOwnedBits s0.cfg) ∧
    (4 ∉ cfgrOwnedBits ∧ 31 ∉ cfgrOwnedBits) ∧
    (15 ∉ pllcfgrOwnedBits ∧ 31 ∉ pllcfgrOwnedBits) := by
  refine ⟨suggested_legal, by decide, by decide, by decide, by decide⟩

/-- A condition that holds, one that does not, both bounds, the k-th poll, and an entry into a
wait. -/
theorem witness_WaitPhasePolls :
    waitCond (.pllConfig 0 2 50 2) (mid .pllOffWait 0x04190105#32) = some true ∧
    waitCond (.clkEnable 0) (mid .clkWait 0x1#32) = some true ∧
    (waitCond (.clkEnable 4) (mid .clkWait 0x41#32) = some false ∧
      (mid .clkWait 0x41#32).cfg.waitBound = none) ∧
    (waitCond (.sysclkSelect 1) (bound 1 (mid .sysWait 0x13#32)) = some false ∧
      (bound 1 (mid .sysWait 0x13#32)).cfg.waitBound = some 1) ∧
    (waitCond (.clkDisable 0) (bound 2 (mid .clkWait 0x2#32)) = some false ∧
      (bound 2 (mid .clkWait 0x2#32)).cfg.waitBound = some 2) ∧
    ∃ t, exec (.clkEnable 1) (mid .clkSet 0x11#32) = .next t ∧ isWaitPhase t.phase = true ∧
      t.phase ≠ (mid .clkSet 0x11#32).phase := by
  refine ⟨by decide, by decide, by decide, by decide, by decide, _, rfl, by decide, by decide⟩

theorem witness_UnboundedWaitMayHoldForever :
    let s := mid .clkWait 0x11#32
    s.schedule = [] ∧ Runs s (.clkEnable 1) ∧ waitCond (.clkEnable 1) s = some false ∧
      s.cfg.waitBound = none :=
  ⟨rfl, ⟨0x11#32, rfl, rfl⟩, by decide, rfl⟩

/-! ### Witnesses: the clock-source commands -/

/-- The lowest and the highest source id. -/
theorem witness_ClkSetWritesEnableBit :
    s0.cfg.Legal ∧ (mid .clkSet 0x1#32).phase = .clkSet ∧ sourceOfId 0 = some .hsi ∧
      sourceOfId 4 = some .pllsai :=
  ⟨suggested_legal, rfl, rfl, rfl⟩

theorem witness_ClkRejectsUnknownSource : (mid .clkSet 0x51#32).phase = .clkSet ∧ 4 < 5 := by decide

theorem witness_ClkWaitEndsOk :
    (mid .clkWait 0x1#32).phase = .clkWait ∧ sourceOfId 0 = some .hsi ∧
      (mid .clkWait 0x1#32).isReady .hsi = true ∧ sourceOfId 4 = some .pllsai ∧
      (mid .clkWait 0x42#32).isReady .pllsai = false := by decide

theorem witness_EnableThenDisableRestoresCr :
    let s := moves ([.controller, .controller, .envReady .hse, .controller, .issue 0x12#32,
      .controller, .controller, .envReady .hse, .controller] ++ []) (mid .decode 0x11#32)
    s.cfg.Legal ∧ sourceOfId 1 = some .hse ∧ s.isOn .hse = false ∧ s.isReady .hse = false ∧
      decode 0x11#32 = .ok (.clkEnable 1) ∧ decode 0x12#32 = .ok (.clkDisable 1) ∧
      s.phase = .decode ∧ s.cmd = some 0x11#32 ∧ s.busy = true ∧
      s.schedule = [.controller, .controller, .envReady .hse, .controller, .issue 0x12#32,
        .controller, .controller, .envReady .hse, .controller] ++ [] :=
  ⟨suggested_legal, rfl, by decide, by decide, rfl, rfl, rfl, rfl, rfl, rfl⟩

/-- CLK_ENABLE HSE in its wait, with HSERDY = 1. -/
def hseReady : State := { mid .clkWait 0x11#32 with cr := 0x00030083#32 }

/-- CLK_DISABLE PLLSAI in its wait, with the ready bit 0. -/
def pllsaiStopped : State := mid .clkWait 0x42#32

theorem hseReady_inv : StateInv hseReady :=
  mid_inv _ (.clkEnable 1) suggested_legal rfl ⟨_, rfl, rfl⟩ (by decide) rfl
    (.inr (.inr ⟨rfl, .hse, rfl, by decide⟩))

theorem pllsaiStopped_inv : StateInv pllsaiStopped :=
  mid_inv _ (.clkDisable 4) suggested_legal rfl ⟨_, rfl, rfl⟩ (by decide) rfl
    (.inr (.inr ⟨rfl, .pllsai, rfl, by decide⟩))

theorem witness_ClkEndsOkOnlyWhenReady :
    (StateInv hseReady ∧ EndsCommand hseReady (endedWith hseReady .ok) ∧
      (endedWith hseReady .ok).lastStatus = some .ok ∧ sourceOfId 1 = some .hse ∧
      Runs hseReady (.clkEnable 1)) ∧
    (StateInv pllsaiStopped ∧ EndsCommand pllsaiStopped (endedWith pllsaiStopped .ok) ∧
      (endedWith pllsaiStopped .ok).lastStatus = some .ok ∧ sourceOfId 4 = some .pllsai ∧
      Runs pllsaiStopped (.clkDisable 4)) :=
  ⟨⟨hseReady_inv, ⟨rfl, rfl, rfl, rfl⟩, rfl, rfl, ⟨_, rfl, rfl⟩⟩,
    ⟨pllsaiStopped_inv, ⟨rfl, rfl, rfl, rfl⟩, rfl, rfl, ⟨_, rfl, rfl⟩⟩⟩

/-! ### Witnesses: SYSCLK_SELECT and HSE_BYPASS -/

theorem witness_SysSetWritesSelector :
    (mid .sysSet 0x33#32).phase = .sysSet ∧ 3 ≤ 3 ∧ 3 < 4 := by decide

theorem witness_SysWaitEndsOk :
    (mid .sysWait 0x3#32).phase = .sysWait ∧ (mid .sysWait 0x3#32).sws.toNat = 0 := by decide

/-- SYSCLK_SELECT 3 in its wait, switched. -/
def switched : State := { mid .sysWait 0x33#32 with cfgr := 0xF#32 }

theorem witness_SysclkEndsOkOnlyWhenSwitched :
    StateInv switched ∧ EndsCommand switched (endedWith switched .ok) ∧
      (endedWith switched .ok).lastStatus = some .ok ∧ Runs switched (.sysclkSelect 3) :=
  ⟨mid_inv _ (.sysclkSelect 3) suggested_legal rfl ⟨_, rfl, rfl⟩ (by decide) rfl
      (.inr (.inr ⟨rfl, by decide⟩)),
    ⟨rfl, rfl, rfl, rfl⟩, rfl, ⟨_, rfl, rfl⟩⟩

theorem witness_HseBypassWritesBit : (mid .bypSet 0x14#32).phase = .bypSet ∧ 1 ≤ 1 ∧ 1 < 2 := by
  decide

/-! ### Witnesses: PLL_CONFIG -/

theorem witness_PllEnableBitSteps :
    (mid .pllOff 0x04190105#32).phase = .pllOff ∧ (mid .pllOn 0x04190105#32).phase = .pllOn := by
  decide

theorem witness_PllWaitsPass :
    ((mid .pllOffWait 0x04190105#32).phase = .pllOffWait ∧
      (mid .pllOffWait 0x04190105#32).cr.getLsbD 25 = false) ∧
    (mid .pllOnWait 0x04190105#32).phase = .pllOnWait ∧
      ({ mid .pllOnWait 0x04190105#32 with cr := 0x03000083#32 } : State).cr.getLsbD 25 = true := by
  decide

theorem s0_pllOff : PllIsOff s0 := ⟨by decide, by decide⟩

/-- PLL_CONFIG HSE, M=2, N=433, P=2 before the write of PLLSRC. -/
def atPllSrc : State := mid .pllSrc 0x04D88115#32

theorem atPllSrc_inv : StateInv atPllSrc :=
  mid_inv _ (.pllConfig 1 2 433 2) suggested_legal rfl ⟨_, rfl, rfl⟩ (by decide) rfl
    ⟨by decide, by decide⟩

theorem witness_PllSourceStep :
    atPllSrc.phase = .pllSrc ∧ 1 ≤ 1 ∧ 1 < 2 ∧ StateInv atPllSrc ∧
      Runs atPllSrc (.pllConfig 1 2 433 2) :=
  ⟨rfl, by decide, by decide, atPllSrc_inv, ⟨_, rfl, rfl⟩⟩

/-- The same after the write of PLLSRC, at the check that fails. -/
def atChkN : State := { mid .pllChkN 0x04D88115#32 with pllcfgr := 0x24403010#32 }

theorem witness_PllRangeChecks :
    (atChkN.phase = .pllChkN ∧ StateInv atChkN ∧ Runs atChkN (.pllConfig 1 2 433 2)) ∧
      (mid .pllChkM 0x04190105#32).phase = .pllChkM :=
  ⟨⟨rfl, mid_inv _ (.pllConfig 1 2 433 2) suggested_legal rfl ⟨_, rfl, rfl⟩ (by decide) rfl
      ⟨⟨by decide, by decide⟩, ⟨by decide, by decide⟩⟩, ⟨_, rfl, rfl⟩⟩, rfl⟩

theorem witness_PllFactorsStep :
    (mid .pllMn 0x04D81F85#32).phase = .pllMn ∧ 432 ≤ 432 ∧ 63 ≤ 63 := by decide

/-- Both modes, a divider that has a code, at both ends, and dividers that have none. -/
theorem witness_PllCodeStep :
    let s := mid .pllP 0x10D80415#32
    s.phase = .pllP ∧ 8 = (if s.cfg.pSource = .fromM then 8 else 2) ∧
      2 = (if (fromP s).cfg.pSource = .fromM then 8 else 2) ∧ 2 ∈ [2, 4, 6, 8] ∧
      8 ∈ [2, 4, 6, 8] ∧ 3 ∉ [2, 4, 6, 8] ∧ 10 ∉ [2, 4, 6, 8] := by decide

/-- PLL_CONFIG HSI, M=16, N=336, P=2 at step 6 (95_test_vectors.md W6). -/
def atCode : State := { mid .pllP 0x04A80805#32 with pllcfgr := 0x24005410#32 }

/-- The last clause: a reachable state at step 6. -/
theorem witness_PllCodeStep_reachable :
    atCode.phase = .pllP ∧ StateInv atCode ∧ Runs atCode (.pllConfig 0 16 336 2) :=
  ⟨rfl, mid_inv _ (.pllConfig 0 16 336 2) suggested_legal rfl ⟨_, rfl, rfl⟩ (by decide) rfl
    ⟨⟨by decide, by decide⟩, ⟨by decide, by decide⟩,
      ⟨by decide, by decide, by decide, by decide⟩, ⟨by decide, by decide⟩⟩, ⟨_, rfl, rfl⟩⟩

/-- PLL_CONFIG at its DECODE step with the PLL on and locked. -/
def lockedStart (w : Word) : State := { mid .decode w with cr := 0x03000083#32 }

/-- The start of PLL_CONFIG on operands at a bound, N = 50 and M = 2, with the PLL off and with the
PLL locked. -/
theorem witness_PllConfigSucceeds :
    let s := moves (List.replicate 2 .controller ++ [] ++ List.replicate 7 .controller ++
      [.envReady .pll, .controller] ++ []) (mid .decode 0x04190105#32)
    let z := moves (List.replicate 2 .controller ++ [.envReady .pll] ++
      List.replicate 7 .controller ++ [.envReady .pll, .controller] ++ [])
      (lockedStart 0x04190105#32)
    (s.cfg.Legal ∧ s.phase = .decode ∧ s.cmd = some 0x04190105#32 ∧
      s.schedule = List.replicate 2 .controller ++ pllUnlocks s ++ List.replicate 7 .controller ++
        [.envReady .pll, .controller] ++ []) ∧
    (z.cfg.Legal ∧ z.phase = .decode ∧ z.cmd = some 0x04190105#32 ∧
      z.schedule = List.replicate 2 .controller ++ pllUnlocks z ++ List.replicate 7 .controller ++
        [.envReady .pll, .controller] ++ []) ∧
    decode 0x04190105#32 = .ok (.pllConfig 0 2 50 2) ∧
      0 ≤ 1 ∧ FactorsLegal 2 50 ∧ 2 = (if s.cfg.pSource = .fromM then 2 else 2) ∧
      2 ∈ [2, 4, 6, 8] :=
  ⟨⟨suggested_legal, rfl, rfl, by decide⟩, ⟨suggested_legal, rfl, rfl, by decide⟩, rfl,
    by decide, ⟨by decide, by decide, by decide, by decide⟩, by decide, by decide⟩

/-- PLL_CONFIG from a locked PLL, with the environment to answer step 1. -/
def lockedAnswered : State :=
  moves [.controller, .controller, .envReady .pll] (lockedStart 0x04190125#32)

/-- Each clause of PllConfigLeftovers, at the first value that its check rejects, with the PLL off and
with the PLL locked. -/
theorem witness_PllConfigLeftovers :
    (decode 0x04190125#32 = .ok (.pllConfig 2 2 50 2) ∧ 1 < 2) ∧
    (decode 0x04188105#32 = .ok (.pllConfig 0 2 49 2) ∧ ¬ (50 ≤ 49 ∧ 49 ≤ 432)) ∧
    (decode 0x04D88105#32 = .ok (.pllConfig 0 2 433 2) ∧ ¬ (50 ≤ 433 ∧ 433 ≤ 432)) ∧
    (decode 0x04190085#32 = .ok (.pllConfig 0 1 50 2) ∧ ¬ (2 ≤ 1 ∧ 1 ≤ 63)) ∧
    (decode 0x04192005#32 = .ok (.pllConfig 0 64 50 2) ∧ ¬ (2 ≤ 64 ∧ 64 ≤ 63)) ∧
    (decode 0x04190185#32 = .ok (.pllConfig 0 3 50 2) ∧ FactorsLegal 3 50 ∧
      (if s0.cfg.pSource = .fromM then 3 else 2) ∉ [2, 4, 6, 8]) ∧
    s0.cfg.Legal ∧
    (mid .decode 0x04190125#32).schedule = (if (mid .decode 0x04190125#32).isReady .pll
      then [.controller, .controller, .envReady .pll] else []) ∧
    lockedAnswered.schedule = (if lockedAnswered.isReady .pll
      then [.controller, .controller, .envReady .pll] else []) :=
  ⟨⟨rfl, by decide⟩, ⟨rfl, by decide⟩, ⟨rfl, by decide⟩, ⟨rfl, by decide⟩, ⟨rfl, by decide⟩,
    ⟨rfl, ⟨by decide, by decide, by decide, by decide⟩, by decide⟩, suggested_legal, by decide,
    by decide⟩

/-- PLL_CONFIG with the PLL on and locked, and with the PLL off, both with `WAIT_BOUND` = 1. -/
theorem witness_PllTimeoutLeftovers :
    let s := bound 1 { mid .decode 0x04190105#32 with cr := 0x03000083#32 }
    let z := bound 1 (mid .decode 0x04190105#32)
    (s.cfg.Legal ∧ s.phase = .decode ∧ s.cmd = some 0x04190105#32 ∧ s.schedule = [] ∧
      s.cfg.waitBound = some 1 ∧ s.isReady .pll = true) ∧
    (z.cfg.Legal ∧ z.phase = .decode ∧ z.cmd = some 0x04190105#32 ∧ z.schedule = [] ∧
      z.cfg.waitBound = some 1 ∧ z.isReady .pll = false) ∧
    decode 0x04190105#32 = .ok (.pllConfig 0 2 50 2) ∧ FactorsLegal 2 50 ∧
    2 = (if z.cfg.pSource = .fromM then 2 else 2) ∧ 2 ∈ [2, 4, 6, 8] :=
  ⟨⟨bound_legal 1 (by decide), rfl, rfl, rfl, rfl, by decide⟩,
    ⟨bound_legal 1 (by decide), rfl, rfl, rfl, rfl, by decide⟩, rfl,
    ⟨by decide, by decide, by decide, by decide⟩, by decide, by decide⟩

/-- PLL_CONFIG HSI, M=2, N=50, P=2 in its last wait, locked (95_test_vectors.md W4). -/
def locked : State :=
  { mid .pllOnWait 0x04190105#32 with cr := 0x03000083#32, pllcfgr := 0x24000C82#32 }

theorem locked_inv : StateInv locked :=
  mid_inv _ (.pllConfig 0 2 50 2) suggested_legal rfl ⟨_, rfl, rfl⟩ (by decide) rfl
    ⟨by decide, ⟨by decide, by decide⟩, ⟨by decide, by decide, by decide, by decide⟩,
      ⟨by decide, by decide⟩, (by decide : pcode 2 = some locked.pllP)⟩

theorem witness_PllEndsOkOnlyWhenConfigured :
    StateInv locked ∧ EndsCommand locked (endedWith locked .ok) ∧
      (endedWith locked .ok).lastStatus = some .ok ∧ Runs locked (.pllConfig 0 2 50 2) :=
  ⟨locked_inv, ⟨rfl, rfl, rfl, rfl⟩, rfl, ⟨_, rfl, rfl⟩⟩

theorem witness_PllcfgrRewrittenOnlyWhileOff :
    StateInv atPllSrc ∧ resetIsNext atPllSrc = false ∧
      ∃ t, step atPllSrc = .next t ∧ t.pllcfgr ≠ atPllSrc.pllcfgr :=
  ⟨atPllSrc_inv, rfl, _, rfl, by decide⟩

/-- Both clauses: a command that ends OK, and one with a divider that has no code. -/
theorem witness_PllFromMNeedsDividerM :
    (StateInv locked ∧ locked.cfg.pSource = .fromM ∧ Runs locked (.pllConfig 0 2 50 2) ∧
      EndsCommand locked (endedWith locked .ok) ∧
      (endedWith locked .ok).lastStatus = some .ok) ∧
    (StateInv atCode ∧ atCode.cfg.pSource = .fromM ∧ Runs atCode (.pllConfig 0 16 336 2) ∧
      atCode.phase = .pllP ∧ 16 ∉ [2, 4, 6, 8]) :=
  ⟨⟨locked_inv, rfl, ⟨_, rfl, rfl⟩, ⟨rfl, rfl, rfl, rfl⟩, rfl⟩,
    ⟨witness_PllCodeStep_reachable.2.1, rfl, ⟨_, rfl, rfl⟩, rfl, by decide⟩⟩

/-! ### Witnesses: the gates -/

theorem witness_PeriphWritesOneGate :
    (mid .gateSet 0x7C6#32).phase = .gateSet ∧ 31 ≤ 31 ∧ 31 < 32 := by decide

/-- Each alternative: PERIPH_ENABLE BUS0 #31, PERIPH_DISABLE BUS0 #20, and a reset. -/
theorem witness_GateChangesOnlyByItsCommand :
    (∃ t, step (mid .gateSet 0x7C6#32) = .next t ∧
      gate t .bus0 31 ≠ gate (mid .gateSet 0x7C6#32) .bus0 31) ∧
    (∃ t, step (mid .gateSet 0x507#32) = .next t ∧
      gate t .bus0 20 ≠ gate (mid .gateSet 0x507#32) .bus0 20) ∧
    (∃ t, step { moves [.reset] s0 with enr := ⟨0#32, 0#32, 0#32, 0#32⟩ } = .next t ∧
      gate t .bus0 20 ≠ gate { moves [.reset] s0 with enr := ⟨0#32, 0#32, 0#32, 0#32⟩ } .bus0 20) :=
  ⟨⟨_, rfl, by decide⟩, ⟨_, rfl, by decide⟩, ⟨_, rfl, by decide⟩⟩

/-! ### Witnesses: the whole machine -/

theorem witness_CommandsWriteOnlyTheirFields :
    s0.cfg.Legal ∧ ∃ t, exec (.clkEnable 4) (mid .clkSet 0x41#32) = .next t ∧ t.cr ≠ s0.cr :=
  ⟨suggested_legal, _, rfl, by decide⟩

/-- A step with a register write, and an unowned bit of each register. -/
theorem witness_UnownedBitsNeverChange :
    s0.cfg.Legal ∧ resetIsNext atPllSrc = false ∧ (∃ t, step atPllSrc = .next t) ∧
      2 ∉ crOwnedBits s0.cfg ∧ 4 ∉ cfgrOwnedBits ∧ 15 ∉ pllcfgrOwnedBits :=
  ⟨suggested_legal, rfl, ⟨_, rfl⟩, by decide, by decide, by decide⟩

theorem witness_ControllerNeverWritesStatusBits :
    s0.cfg.Legal ∧ ∃ t, controllerStep (mid .clkSet 0x41#32) = .next t :=
  ⟨suggested_legal, _, rfl⟩

/-- A step inside a command and one that ends it. -/
theorem witness_LatchStaysUntilTheEnd :
    (StateInv atPllSrc ∧ atPllSrc.busy = true ∧ resetIsNext atPllSrc = false ∧
      ∃ t, step atPllSrc = .next t ∧ t.busy = true) ∧
    (StateInv locked ∧ locked.busy = true ∧ resetIsNext locked = false ∧
      ∃ t, step locked = .next t ∧ t.busy = false) :=
  ⟨⟨atPllSrc_inv, rfl, rfl, _, rfl, rfl⟩, ⟨locked_inv, rfl, rfl, _, rfl, rfl⟩⟩

/-- A reset to come, after a command that ended OK. -/
def resetAfterOk : State := { moves [.reset] s0 with lastStatus := some .ok }

/-- An end, and a reset. -/
theorem witness_LastStatusChangesOnlyAtTheEnd :
    (StateInv locked ∧ ∃ t, step locked = .next t ∧ t.lastStatus ≠ locked.lastStatus) ∧
    (StateInv resetAfterOk ∧
      ∃ t, step resetAfterOk = .next t ∧ t.lastStatus ≠ resetAfterOk.lastStatus) :=
  ⟨⟨locked_inv, _, rfl, by decide⟩,
    ⟨stateInv_of_idle _ suggested_legal rfl rfl rfl rfl, _, rfl, by decide⟩⟩

/-- CLK_ENABLE HSE in its wait with `WAIT_BOUND` = 1 and HSERDY = 0. -/
def lastPoll : State := { bound 1 (mid .clkWait 0x11#32) with cr := 0x00010083#32 }

theorem lastPoll_inv : StateInv lastPoll :=
  mid_inv _ (.clkEnable 1) (bound_legal 1 (by decide)) rfl ⟨_, rfl, rfl⟩ (by decide) rfl
    (.inr (.inr ⟨rfl, .hse, rfl, by decide⟩))

/-- An end with each of the four statuses. -/
theorem witness_EveryStatusHasItsCause :
    (StateInv locked ∧ EndsCommand locked (endedWith locked .ok)) ∧
    (StateInv (mid .decode 0x0#32) ∧
      EndsCommand (mid .decode 0x0#32) (endedWith (mid .decode 0x0#32) .illegalCommand)) ∧
    (StateInv (mid .clkSet 0x51#32) ∧
      EndsCommand (mid .clkSet 0x51#32) (endedWith (mid .clkSet 0x51#32) .invalidParameter)) ∧
    (StateInv lastPoll ∧ EndsCommand lastPoll (endedWith lastPoll .hardwareTimeout)) :=
  ⟨⟨locked_inv, ⟨rfl, rfl, rfl, rfl⟩⟩,
    ⟨⟨suggested_legal, by decide, by decide, waitCountInRange_zero _ suggested_legal rfl,
      fun _ h => absurd rfl h⟩, ⟨rfl, rfl, rfl, rfl⟩⟩,
    ⟨mid_inv _ (.clkEnable 5) suggested_legal rfl ⟨_, rfl, rfl⟩ (by decide) rfl (.inr (.inl rfl)),
      ⟨rfl, rfl, rfl, rfl⟩⟩,
    ⟨lastPoll_inv, ⟨rfl, rfl, rfl, rfl⟩⟩⟩

/-- A run of one step that records a fault. -/
theorem witness_ParametersAndFaultsAreKept :
    ∃ t, stepN 1 (moves [.readRegister 0x4002380C#32 4] s0) = .next t ∧ t.faults ≠ [] :=
  ⟨_, rfl, by decide⟩

theorem witness_CommandsWithoutWaitEnd :
    let s := mid .decode 0x14#32
    s.schedule = [] ∧ s.phase = .decode ∧ s.cmd = some 0x14#32 ∧
      decode 0x14#32 = .ok (.hseBypass 1) ∧ firstPhase (.hseBypass 1) = .bypSet ∧
      decode 0x806#32 = .ok (.periphEnable .bus0 32) ∧
      firstPhase (.periphEnable .bus0 32) = .gateSet :=
  ⟨rfl, rfl, rfl, rfl, rfl, rfl, rfl⟩

/-- Each of the three commands, with the lowest and the highest value of its operand. -/
theorem witness_WaitingCommandsTakeThreeSteps :
    let s := mid .decode 0x1#32
    (s.cfg.Legal ∧ s.schedule = [] ∧ s.phase = .decode ∧ s.cmd = some 0x1#32) ∧
    (decode 0x1#32 = .ok (.clkEnable 0) ∧ sourceOfId 0 = some .hsi ∧ s.isReady .hsi = true) ∧
    (decode 0x42#32 = .ok (.clkDisable 4) ∧ sourceOfId 4 = some .pllsai ∧
      (mid .decode 0x42#32).isReady .pllsai = false) ∧
    (decode 0x3#32 = .ok (.sysclkSelect 0) ∧ (mid .decode 0x3#32).sws.toNat = 0) ∧
    (decode 0x33#32 = .ok (.sysclkSelect 3) ∧
      ({ mid .decode 0x33#32 with cfgr := 0xC#32 } : State).sws.toNat = 3) :=
  ⟨⟨suggested_legal, rfl, rfl, rfl⟩, ⟨rfl, rfl, by decide⟩, ⟨rfl, rfl, by decide⟩,
    ⟨rfl, by decide⟩, ⟨rfl, by decide⟩⟩

theorem witness_BoundedWaitsEnd :
    StateInv lastPoll ∧ lastPoll.busy = true ∧ lastPoll.schedule = [] ∧
      lastPoll.cfg.waitBound = some 1 :=
  ⟨lastPoll_inv, rfl, rfl, rfl⟩

theorem witness_InvariantKeptByStep :
    (StateInv atPllSrc ∧ ∃ t, step atPllSrc = .next t) ∧
    (StateInv lastPoll ∧ ∃ t, step lastPoll = .next t) :=
  ⟨⟨atPllSrc_inv, _, rfl⟩, ⟨lastPoll_inv, _, rfl⟩⟩

theorem witness_StepNeverStops : StateInv s0 ∧ StateInv atChkN :=
  ⟨s0_inv, witness_PllRangeChecks.1.2.1⟩

/-- A run from reset in which the host issues a command. -/
theorem witness_BusyExactlyWhenNotIdle :
    s0.cfg.Legal ∧ ∃ t, stepN 1 (moves [.issue 0x11#32] s0).assertReset = .next t ∧
      t.busy = true :=
  ⟨suggested_legal, _, rfl, rfl⟩

end Sys2Proof.Tests
end

section
/-! PROOFS. The encoding family (30_encoding.md): the pseudo-commands of R96, and the words that
R91 and R92 reserve. A word that decodes has all the bits its row's mask fixes, so its opcode
nibble and its reserved bits are those of the row's pattern. -/

namespace Sys2Proof

/-- The number of an opcode, which is its value at bits [3:0] (R81). -/
def opcodeCode : Opcode → Nat
  | .clkEnable => 1
  | .clkDisable => 2
  | .sysclkSelect => 3
  | .hseBypass => 4
  | .pllConfig => 5
  | .periphEnable => 6
  | .periphDisable => 7

/-- The lowest reserved bit of an opcode's format; the reserved bits are this one up to bit 31
(R83, R84, R85, R87). -/
def reservedLo : Opcode → Nat
  | .clkEnable | .clkDisable => 7
  | .sysclkSelect | .hseBypass | .periphEnable | .periphDisable => 12
  | .pllConfig => 29

/-- A field that the mask covers is the same in a word and in the pattern it matches. -/
theorem fieldOf_eq_of_masked {w m p : Word} (h : w &&& m = p) (lo n : Nat)
    (hm : ∀ k < n, m.getLsbD (lo + k) = true) : fieldOf w lo n = fieldOf p lo n := by
  apply Nat.eq_of_testBit_eq
  intro k
  rw [testBit_fieldOf, testBit_fieldOf]
  by_cases hk : k < n
  · rw [masked_bit h (lo + k) (hm k hk)]
  · simp [hk]

/-- A word that selects the row of `op` has `op`'s number at bits [3:0] (R90). -/
theorem opcodeCode_of_selects {w : Word} {op : Opcode}
    (h : w &&& (rowOf op).mask = (rowOf op).pattern) : fieldOf w 0 4 = opcodeCode op := by
  rw [fieldOf_eq_of_masked h 0 4 (by cases op <;> decide)]
  cases op <;> rfl

/-- A word that selects the row of `op` has 0 in every reserved bit of `op`'s format (R92). -/
theorem reservedBits_of_selects {w : Word} {op : Opcode}
    (h : w &&& (rowOf op).mask = (rowOf op).pattern) :
    fieldOf w (reservedLo op) (32 - reservedLo op) = 0 := by
  rw [fieldOf_eq_of_masked h _ _ (by cases op <;> decide)]
  cases op <;> rfl

end Sys2Proof

namespace Sys2Proof.Machine

/-- The DECODE step of a word that encodes no command (40_command_cycle.md R102). -/
theorem step_of_decode_error {s : State} {w : Word} {e : DecodeError} (hs : s.schedule = [])
    (hp : s.phase = .decode) (hc : s.cmd = some w) (hd : decode w = .error e) :
    step s = .next (endedWith s .illegalCommand) := by
  have hstep : step s = controllerStep s := by simp [step, agentStep, hs]
  rw [hstep]
  simp [controllerStep, hp, hc, hd, State.raise, State.finish, endedWith]

/-- Settles O9: had the word decoded, it would select its opcode's row, so that its opcode is in use
and its reserved bits are 0. -/
theorem reservedWordEndsIllegalCommand : Obligations.ReservedWordEndsIllegalCommand := by
  intro s w hsched hphase hcmd hreserved
  cases hd : decode w with
  | error e => exact step_of_decode_error hsched hphase hcmd hd
  | ok i =>
    obtain ⟨op, -, hsel, -⟩ := decode_ok_cases hd
    have hcode := opcodeCode_of_selects hsel
    have hzero := reservedBits_of_selects hsel
    cases op <;> simp only [opcodeCode, reservedLo, Nat.reduceSub] at hcode hzero <;> omega

/-- Settles O5: the nine rows without operands are words computed from the formats, and the row of
PLL_CONFIG_LIT holds for all operands because its word is the format's with P = 0. -/
theorem pseudoCommandsExpand : Obligations.PseudoCommandsExpand :=
  ⟨⟨rfl, rfl⟩, ⟨rfl, rfl⟩, ⟨rfl, rfl⟩, ⟨rfl, rfl⟩, ⟨rfl, rfl⟩, ⟨rfl, rfl⟩, ⟨rfl, rfl⟩, ⟨rfl, rfl⟩,
    ⟨rfl, rfl⟩, fun _ _ _ => ⟨rfl, rfl⟩⟩

end Sys2Proof.Machine
end

section
/-! PROOFS. The command cycle (40_command_cycle.md): the DECODE step of R102. A word that selects a
row of the map decodes to that row's command, and every command leaves DECODE for its own first
phase. -/

namespace Sys2Proof

/-- A word that selects the row of `op` decodes to `op` with the operands of its format (R90). -/
theorem decode_of_selects {w : Word} {op : Opcode} (h : (rowOf op).selects w = true) :
    decode w = .ok (operandsOf w op) := by
  have hop : opcodeOfNat (fieldOf w 0 4) = some op := selects_opcode w op ((selects_iff _ _).1 h)
  simp [decode, hop, h]

end Sys2Proof

namespace Sys2Proof.Machine

/-- With no move scheduled the controller moves (10_state.md R20; log entry 1). -/
theorem step_of_schedule_nil {s : State} (hs : s.schedule = []) : step s = controllerStep s := by
  simp [step, agentStep, hs]

/-- A controller step in a busy phase is the step of the latched command (R104). -/
theorem controllerStep_of_decode_ok {s : State} {w : Word} {i : Instr} (hp : s.phase ≠ .idle)
    (hc : s.cmd = some w) (hd : decode w = .ok i) : controllerStep s = exec i s := by
  simp [controllerStep, hp, hc, hd]

/-- In DECODE every command goes to its first phase and writes nothing (R102). -/
theorem exec_decode (i : Instr) {s : State} (hp : s.phase = .decode) :
    exec i s = .next (s.goto (firstPhase i)) := by
  cases i with
  | clkEnable src => simp only [exec, execClkEnable, hp, firstPhase]
  | clkDisable src => simp only [exec, execClkDisable, hp, firstPhase]
  | sysclkSelect val => simp only [exec, execSysclkSelect, hp, firstPhase]
  | hseBypass val => simp only [exec, execHseBypass, hp, firstPhase]
  | pllConfig src m n p => simp only [exec, execPllConfig, hp, firstPhase]
  | periphEnable bus pos => simp only [exec, execPeriphEnable, hp, firstPhase]
  | periphDisable bus pos => simp only [exec, execPeriphDisable, hp, firstPhase]

/-- The DECODE step of a word that encodes a command (R102). -/
theorem step_of_decode_ok {s : State} {w : Word} {i : Instr} (hs : s.schedule = [])
    (hp : s.phase = .decode) (hc : s.cmd = some w) (hd : decode w = .ok i) :
    step s = .next (s.goto (firstPhase i)) := by
  rw [step_of_schedule_nil hs, controllerStep_of_decode_ok (by simp [hp]) hc hd, exec_decode i hp]

/-- Settles O8: a selected row is the row of the command the word decodes to, whose DECODE step only
changes the phase; a word that decoded would select its own opcode's row, so one that selects none
does not decode. -/
theorem decodeStepChecksEncoding : Obligations.DecodeStepChecksEncoding := by
  intro s w hsched hphase hcmd
  refine ⟨fun r hr hsel => ?_, fun hnone => ?_⟩
  · obtain ⟨op, rfl⟩ := mem_rowOf hr
    have hdecode := decode_of_selects hsel
    exact ⟨_, hdecode, by simp, step_of_decode_ok hsched hphase hcmd hdecode⟩
  · cases hd : decode w with
    | error e => exact step_of_decode_error hsched hphase hcmd hd
    | ok i =>
      obtain ⟨op, -, hmask, -⟩ := decode_ok_cases hd
      have hsel : (rowOf op).selects w = true := (selects_iff _ _).2 hmask
      simp [hnone _ (rowOf_mem op)] at hsel

end Sys2Proof.Machine
end

section
/-! PROOFS. Clock source enable and disable (41_clock_source.md): the CLK_SET step that CLK_ENABLE
and CLK_DISABLE share, and its rejection of an id that names no source (R122). -/

namespace Sys2Proof.Machine

/-- Every end of a command leaves the registers as they are (R107). -/
theorem finish_eq_endedWith (s : State) (x : Status) : s.finish x = endedWith s x := rfl

/-- In CLK_SET, CLK_ENABLE sets the enable bit of its source (R120). -/
theorem exec_clkEnable_clkSet (src : Nat) {s : State} (hp : s.phase = .clkSet) :
    exec (.clkEnable src) s = .next (clkSet src true s) := by
  simp only [exec, execClkEnable, hp]

/-- In CLK_SET, CLK_DISABLE clears the enable bit of its source (R121). -/
theorem exec_clkDisable_clkSet (src : Nat) {s : State} (hp : s.phase = .clkSet) :
    exec (.clkDisable src) s = .next (clkSet src false s) := by
  simp only [exec, execClkDisable, hp]

/-- The CLK_SET step on an id that names no source, whichever way the bit would be written (R122). -/
theorem clkSet_of_unknown_source {src : Nat} (h : 4 < src) (on : Bool) (s : State) :
    clkSet src on s = endedWith s .invalidParameter := by
  have hnone : sourceOfId src = none := (sourceOfId_none src).2 h
  obtain ⟨-, hset⟩ | ⟨c, hsome, -⟩ := clkSet_cases src on s
  · rw [hset, finish_eq_endedWith]
  · simp [hnone] at hsome

/-- Settles O21: both commands take the CLK_SET step, which an id above 4 ends before the write. -/
theorem clkRejectsUnknownSource : Obligations.ClkRejectsUnknownSource := by
  intro s src hphase hsrc
  constructor
  · rw [exec_clkEnable_clkSet src hphase, clkSet_of_unknown_source hsrc]
  · rw [exec_clkDisable_clkSet src hphase, clkSet_of_unknown_source hsrc]

end Sys2Proof.Machine
end

section
/-! PROOFS. System clock selection (42_sysclk_select.md): the SYS_SET step of SYSCLK_SELECT, which
writes SW in one step or rejects the value (R130, R131). -/

namespace Sys2Proof.Machine

/-- In SYS_SET, SYSCLK_SELECT checks the value and writes SW (R130). -/
theorem exec_sysclkSelect_sysSet (val : Nat) {s : State} (hp : s.phase = .sysSet) :
    exec (.sysclkSelect val) s = .next (sysSet val s) := by
  simp only [exec, execSysclkSelect, hp]

/-- A SYS_SET step on a value above 3 only ends the command (R130). -/
theorem sysSet_of_gt {val : Nat} (h : 3 < val) (s : State) :
    sysSet val s = endedWith s .invalidParameter := by
  obtain ⟨-, hset⟩ | ⟨hle, -⟩ := sysSet_cases val s
  · rw [hset, finish_eq_endedWith]
  · omega

/-- A SYS_SET step on a value up to 3 writes SW and enters the wait (R130). -/
theorem sysSet_of_le {val : Nat} (h : val ≤ 3) (s : State) :
    sysSet val s = (s.writeField .cfgr swLo (BitVec.ofNat 2 val)).enterWait .sysWait := by
  obtain ⟨hgt, -⟩ | ⟨-, hset⟩ := sysSet_cases val s
  · omega
  · exact hset

/-- The write of SW leaves the bits of CFGR above it (R27, R31). -/
theorem getLsbD_cfgr_writeSw (s : State) (v : BitVec 2) {j : Nat} (hj : 2 ≤ j) :
    (s.writeField .cfgr swLo v).cfgr.getLsbD j = s.cfgr.getLsbD j := by
  rw [writeField_cfgr_cfgr, getLsbD_setField, if_neg (by simp only [swLo]; omega)]

/-- Settles O25: a value up to 3 fits SW's two bits, so SW reads it back after the one field write,
which reaches no other bit of CFGR; a larger one ends the command before the write. -/
theorem sysSetWritesSelector : Obligations.SysSetWritesSelector := by
  intro s val hphase
  rw [exec_sysclkSelect_sysSet val hphase]
  refine ⟨fun hle => ⟨_, rfl, ?_⟩, fun hgt => by rw [sysSet_of_gt hgt]⟩
  rw [sysSet_of_le hle]
  refine ⟨rfl, ?_, fun j hj => ?_⟩
  · rw [enterWait_sw, sw_writeSw, BitVec.toNat_ofNat, Nat.mod_eq_of_lt (by omega)]
  · rw [enterWait_cfgr, getLsbD_cfgr_writeSw s _ hj]

end Sys2Proof.Machine
end

section
/-! PROOFS. External oscillator bypass (43_hse_bypass.md): the BYP_SET step of HSE_BYPASS, which
writes HSEBYP whatever HSEON is and ends the command, or rejects the value (R140, R141). -/

namespace Sys2Proof.Machine

/-- In BYP_SET, HSE_BYPASS checks the value, writes HSEBYP and ends (R140). -/
theorem exec_hseBypass_bypSet (val : Nat) {s : State} (hp : s.phase = .bypSet) :
    exec (.hseBypass val) s = .next (bypSet val s) := by
  simp only [exec, execHseBypass, hp]

/-- A BYP_SET step on a value above 1 only ends the command (R140). -/
theorem bypSet_of_gt {val : Nat} (h : 1 < val) (s : State) :
    bypSet val s = endedWith s .invalidParameter := by
  obtain ⟨-, hset⟩ | ⟨hle, -⟩ := bypSet_cases val s
  · rw [hset, finish_eq_endedWith]
  · omega

/-- A BYP_SET step on a value up to 1 writes HSEBYP and ends OK, with no look at HSEON (R140,
R141). -/
theorem bypSet_of_le {val : Nat} (h : val ≤ 1) (s : State) :
    bypSet val s = endedWith (s.writeBit .cr hseBypBit (val == 1)) .ok := by
  obtain ⟨hgt, -⟩ | ⟨-, hset⟩ := bypSet_cases val s
  · omega
  · rw [hset, finish_eq_endedWith]

/-- A write of one bit of CR reaches that bit and no other (R25, R31). -/
theorem getLsbD_cr_writeBit (s : State) {i : Nat} (hi : i < 32) (b : Bool) (j : Nat) :
    (s.writeBit .cr i b).cr.getLsbD j = if j = i then b else s.cr.getLsbD j := by
  have hin : (j = i ∧ j < 32) ↔ j = i := and_iff_left_of_imp fun hj => hj ▸ hi
  simp only [writeBit_cr_cr, getLsbD_setBit, hin]

/-- Settles O28: a value up to 1 reaches CR as the one bit HSEBYP before the end OK; a larger one
ends the command before the write. -/
theorem hseBypassWritesBit : Obligations.HseBypassWritesBit := by
  intro s val hphase
  rw [exec_hseBypass_bypSet val hphase]
  refine ⟨fun hle => ⟨_, rfl, ?_⟩, fun hgt => by rw [bypSet_of_gt hgt]⟩
  rw [bypSet_of_le hle]
  exact ⟨rfl, getLsbD_cr_writeBit s (by decide : hseBypBit < 32) (val == 1)⟩

end Sys2Proof.Machine
end

section
/-! PROOFS. PLL configuration (44_pll_config.md): the table of divider codes of R158, and steps 2 to
6 of PLL_CONFIG. Each step is a check, one write of PLLCFGR, or both; what the earlier steps have
written is the invariant's `PllProgress` at the step's phase. -/

namespace Sys2Proof.Machine

/-! ### The divider codes -/

/-- Every 2-bit code is the code of its divider (R29, R158). -/
theorem pcode_dividerOfCode (code : BitVec 2) : pcode (dividerOfCode code) = some code := by
  revert code
  decide

/-- A code that the table gives stands for the divider it was looked up for (R29, R158). -/
theorem dividerOfCode_of_pcode {d : Nat} {code : BitVec 2} (h : pcode d = some code) :
    dividerOfCode code = d := by
  have hd : d ∈ [2, 4, 6, 8] := by
    by_contra hd
    simp [(pcode_none d).2 hd] at h
  simp only [List.mem_cons, List.not_mem_nil, or_false] at hd
  obtain rfl | rfl | rfl | rfl := hd <;> cases h <;> rfl

/-- Settles O6: the table and the divider of a code are inverse to each other. -/
theorem pcodeInvertsDivider : Obligations.PcodeInvertsDivider := by
  intro d code
  constructor
  · intro h
    exact (dividerOfCode_of_pcode h).symm
  · rintro rfl
    exact pcode_dividerOfCode code

/-- A divider of the table has a code, which is d/2 - 1 (R158). -/
theorem exists_pcode {d : Nat} (h : d ∈ [2, 4, 6, 8]) :
    ∃ code, pcode d = some code ∧ code.toNat = d / 2 - 1 := by
  cases hcode : pcode d with
  | none => exact absurd h ((pcode_none d).1 hcode)
  | some code =>
    have hdivider : 2 * (code.toNat + 1) = d := dividerOfCode_of_pcode hcode
    exact ⟨code, rfl, by omega⟩

/-! ### The writes of PLLCFGR -/

/-- A write of one bit of PLLCFGR reaches that bit and no other (R28, R31). -/
theorem getLsbD_pllcfgr_writeBit (s : State) {i : Nat} (hi : i < 32) (b : Bool) (j : Nat) :
    (s.writeBit .pllcfgr i b).pllcfgr.getLsbD j = if j = i then b else s.pllcfgr.getLsbD j := by
  have hin : (j = i ∧ j < 32) ↔ j = i := and_iff_left_of_imp fun hj => hj ▸ hi
  simp only [writeBit_pllcfgr_pllcfgr, getLsbD_setBit, hin]

/-- A write of a field of PLLCFGR leaves the bits outside the field (R28, R31). -/
theorem getLsbD_pllcfgr_writeField_apart {n : Nat} (s : State) (lo : Nat) (v : BitVec n) {j : Nat}
    (hj : j < lo ∨ lo + n ≤ j) :
    (s.writeField .pllcfgr lo v).pllcfgr.getLsbD j = s.pllcfgr.getLsbD j := by
  rw [writeField_pllcfgr_pllcfgr, getLsbD_setField, if_neg (by omega)]

/-! ### The phases and what has been written by then -/

/-- In PLL_SRC, PLL_CONFIG takes step 2 (R150). -/
theorem exec_pllConfig_pllSrc (src m n p : Nat) {s : State} (hp : s.phase = .pllSrc) :
    exec (.pllConfig src m n p) s = .next (pllSource src s) := by
  simp only [exec, execPllConfig, hp]

/-- In PLL_CHK_N, PLL_CONFIG takes step 3 (R150). -/
theorem exec_pllConfig_pllChkN (src m n p : Nat) {s : State} (hp : s.phase = .pllChkN) :
    exec (.pllConfig src m n p) s = .next (pllCheckN n s) := by
  simp only [exec, execPllConfig, hp]

/-- In PLL_CHK_M, PLL_CONFIG takes step 4 (R150). -/
theorem exec_pllConfig_pllChkM (src m n p : Nat) {s : State} (hp : s.phase = .pllChkM) :
    exec (.pllConfig src m n p) s = .next (pllCheckM m s) := by
  simp only [exec, execPllConfig, hp]

/-- In PLL_MN, PLL_CONFIG takes step 5 (R150). -/
theorem exec_pllConfig_pllMn (src m n p : Nat) {s : State} (hp : s.phase = .pllMn) :
    exec (.pllConfig src m n p) s = .next (pllWriteFactors m n s) := by
  simp only [exec, execPllConfig, hp]

/-- In PLL_P, PLL_CONFIG takes step 6 (R150). -/
theorem exec_pllConfig_pllP (src m n p : Nat) {s : State} (hp : s.phase = .pllP) :
    exec (.pllConfig src m n p) s = .next (pllWriteCode m p s) := by
  simp only [exec, execPllConfig, hp]

/-- Past DECODE, what the invariant says of some latched command it says of the one that runs (R42,
R104). -/
theorem progress_of_runs {s : State} {i : Instr} (hinv : StateInv s) (hr : Runs s i)
    (hidle : s.phase ≠ .idle) (hdecode : s.phase ≠ .decode) : Progress i s := by
  obtain ⟨j, hj, hprogress⟩ := hinv.progress hidle hdecode
  rwa [runs_unique hr hj]

/-- What PLL_CONFIG has written when it stands in phase `ph` past DECODE (R150, R161). -/
theorem pllProgress_of_runs {s : State} {src m n p : Nat} {ph : Phase} (hinv : StateInv s)
    (hr : Runs s (.pllConfig src m n p)) (hp : s.phase = ph) (hidle : ph ≠ .idle)
    (hdecode : ph ≠ .decode) : PllProgress src m n p s ph := by
  subst hp
  exact progress_of_runs hinv hr hidle hdecode

/-! ### Step 2: the source -/

/-- A legal source reaches PLLCFGR as the one bit PLLSRC (R152). -/
theorem pllSource_of_le {src : Nat} (h : src ≤ 1) (s : State) :
    pllSource src s = (s.writeBit .pllcfgr pllSrcBit (decide (src = 1))).goto .pllChkN := by
  obtain ⟨hgt, -⟩ | ⟨-, hset⟩ := pllSource_cases src s
  · omega
  · exact hset

/-- A source above 1 only ends the command (R152). -/
theorem pllSource_of_gt {src : Nat} (h : 1 < src) (s : State) :
    pllSource src s = endedWith s .invalidParameter := by
  obtain ⟨-, hset⟩ | ⟨hle, -⟩ := pllSource_cases src s
  · rw [hset, finish_eq_endedWith]
  · omega

/-- Settles O31: a legal source is written as the one bit PLLSRC and any other ends the command
before the write; that the PLL is off is the progress at PLL_SRC. -/
theorem pllSourceStep : Obligations.PllSourceStep := by
  intro s src m n p hphase
  rw [exec_pllConfig_pllSrc src m n p hphase]
  refine ⟨fun hle => ⟨_, rfl, ?_⟩, fun hgt => by rw [pllSource_of_gt hgt], fun hinv hruns => ?_⟩
  · rw [pllSource_of_le hle]
    exact ⟨rfl, getLsbD_pllcfgr_writeBit s (by decide : pllSrcBit < 32) (decide (src = 1))⟩
  · have hoff : PllIsOff s := pllProgress_of_runs hinv hruns hphase (by decide) (by decide)
    exact hoff.off

/-! ### Steps 3 and 4: the ranges of N and M -/

/-- The N check only changes the phase or ends the command (R153). -/
theorem pllCheckN_eq (n : Nat) (s : State) :
    pllCheckN n s = if 50 ≤ n ∧ n ≤ 432 then { s with phase := .pllChkM }
      else endedWith s .invalidParameter := by
  obtain ⟨hin, hcheck⟩ | ⟨hout, hcheck⟩ := pllCheckN_cases n s
  · rw [hcheck, if_pos hin]; rfl
  · rw [hcheck, if_neg hout, finish_eq_endedWith]

/-- The M check only changes the phase or ends the command (R154). -/
theorem pllCheckM_eq (m : Nat) (s : State) :
    pllCheckM m s = if 2 ≤ m ∧ m ≤ 63 then { s with phase := .pllMn }
      else endedWith s .invalidParameter := by
  obtain ⟨hin, hcheck⟩ | ⟨hout, hcheck⟩ := pllCheckM_cases m s
  · rw [hcheck, if_pos hin]; rfl
  · rw [hcheck, if_neg hout, finish_eq_endedWith]

/-- Settles O32: each check is its range test and writes nothing; what stands at the N check is the
progress at PLL_CHK_N. -/
theorem pllRangeChecks : Obligations.PllRangeChecks := by
  intro s src m n p
  refine ⟨fun hphase => ⟨?_, fun hinv hruns => ?_⟩, fun hphase => ?_⟩
  · rw [exec_pllConfig_pllChkN src m n p hphase, pllCheckN_eq]
  · obtain ⟨hoff, hsrc⟩ : PllIsOff s ∧ SourceWritten src s :=
      pllProgress_of_runs hinv hruns hphase (by decide) (by decide)
    exact ⟨hoff.off, hsrc.written⟩
  · rw [exec_pllConfig_pllChkM src m n p hphase, pllCheckM_eq]

/-! ### Step 5: the factors -/

/-- Settles O33: the one write reaches PLLCFGR[14:0] and no bit above, and values within the upper
bounds fit PLLM's 6 bits and PLLN's 9, so that both read back. -/
theorem pllFactorsStep : Obligations.PllFactorsStep := by
  intro s src m n p hphase hn hm
  rw [exec_pllConfig_pllMn src m n p hphase]
  refine ⟨_, rfl, rfl, ?_, ?_, fun j hj => ?_⟩
  · rw [pllWriteFactors, goto_pllM, pllM_writeFactors, BitVec.toNat_ofNat,
      Nat.mod_eq_of_lt (by omega)]
  · rw [pllWriteFactors, goto_pllN, pllN_writeFactors, BitVec.toNat_ofNat,
      Nat.mod_eq_of_lt (by omega)]
  · exact getLsbD_pllcfgr_writeField_apart s pllMLo (pllFactors n m)
      (.inr (by simpa only [pllMLo] using hj))

/-! ### Step 6: the divider code -/

/-- A divider with a code reaches PLLCFGR as the field PLLP (R156). -/
theorem pllWriteCode_of_code {m p : Nat} {s : State} {code : BitVec 2}
    (h : pcode (dividerOf s.cfg.pSource m p) = some code) :
    pllWriteCode m p s = (s.writeField .pllcfgr pllPLo code).goto .pllOn := by
  obtain ⟨hnone, -⟩ | ⟨code', hsome, hset⟩ := pllWriteCode_cases m p s
  · simp [h] at hnone
  · cases h.symm.trans hsome
    exact hset

/-- A divider with no code only ends the command (R156). -/
theorem pllWriteCode_of_no_code {m p : Nat} {s : State}
    (h : pcode (dividerOf s.cfg.pSource m p) = none) :
    pllWriteCode m p s = endedWith s .invalidParameter := by
  obtain ⟨-, hset⟩ | ⟨code, hsome, -⟩ := pllWriteCode_cases m p s
  · rw [hset, finish_eq_endedWith]
  · simp [h] at hsome

/-- Settles O34: d is the divider that the step looks up. With a code the one write is PLLP, which
reads the code back; with none the command ends before the write; that M and N stand is the progress
at PLL_P. -/
theorem pllCodeStep : Obligations.PllCodeStep := by
  intro s src m n p d hphase hd
  rw [← dividerOf_eq] at hd
  subst hd
  rw [exec_pllConfig_pllP src m n p hphase]
  refine ⟨fun hlegal => ⟨_, rfl, ?_⟩, fun hillegal => ?_, fun hinv hruns => ?_⟩
  · obtain ⟨code, hcode, hvalue⟩ := exists_pcode hlegal
    rw [pllWriteCode_of_code hcode]
    refine ⟨rfl, by rw [goto_pllP, pllP_writeCode, hvalue], fun j h16 h17 => ?_⟩
    exact getLsbD_pllcfgr_writeField_apart s pllPLo code (by simp only [pllPLo]; omega)
  · rw [pllWriteCode_of_no_code ((pcode_none _).2 hillegal)]
  · obtain ⟨-, -, -, hfactors⟩ : PllIsOff s ∧ SourceWritten src s ∧ FactorsLegal m n ∧
        FactorsWritten m n s := pllProgress_of_runs hinv hruns hphase (by decide) (by decide)
    exact ⟨hfactors.mWritten, hfactors.nWritten⟩

end Sys2Proof.Machine
end

section
/-! PROOFS. Peripheral clock gating (45_clock_gating.md): which steps can change a gate (R172). Every
operation but the write of a gate bit leaves the four ENR registers as they are, so a gate can only
change in the GATE_SET step of PERIPH_ENABLE or PERIPH_DISABLE, and in a reset. -/

namespace Sys2Proof.Machine

/-! ### What leaves the ENR registers as they are -/

/-- A failed poll writes no ENR register (R105). -/
@[simp] theorem failedPoll_enr (s : State) : s.failedPoll.enr = s.enr := by
  obtain ⟨-, h⟩ | ⟨_, -, -, h⟩ | ⟨_, -, -, h⟩ := failedPoll_cases s
  · rw [h]
  · rw [h, finish_enr]
  · rw [h]

/-- A poll writes no ENR register where what follows the wait writes none (R105). -/
theorem waitUntil_enr (s : State) (cond : Bool) (next : State → State)
    (hnext : ∀ u, (next u).enr = u.enr) : (s.waitUntil cond next).enr = s.enr := by
  obtain ⟨-, h⟩ | ⟨-, h⟩ := waitUntil_cases s cond next
  · rw [h, hnext]
  · rw [h, failedPoll_enr]

/-- The environment's ready-bit move writes CR only (R190). -/
@[simp] theorem envReady_enr (s : State) (c : ClockSource) : (s.envReady c).enr = s.enr := by
  obtain ⟨-, h⟩ | ⟨-, h⟩ := envReady_cases s c
  · rw [h]
  · rw [h, writeBit_cr_enr]

/-- The environment's switch move writes CFGR only (R191). -/
@[simp] theorem envSwitch_enr (s : State) : s.envSwitch.enr = s.enr := by
  obtain ⟨-, h⟩ | ⟨-, h⟩ := envSwitch_cases s
  · rw [h]
  · rw [h, writeField_cfgr_enr]

/-- The host's register read writes no register (R63, R188). -/
@[simp] theorem hostRead_enr (s : State) (addr : Word) (size : Nat) :
    (s.hostRead addr size).enr = s.enr := by
  obtain ⟨_, -, h⟩ | ⟨-, h⟩ := hostRead_cases s addr size <;> rw [h]

/-- CLK_SET writes CR only (R120, R121). -/
@[simp] theorem clkSet_enr (src : Nat) (on : Bool) (s : State) : (clkSet src on s).enr = s.enr := by
  obtain ⟨-, h⟩ | ⟨_, -, h⟩ := clkSet_cases src on s
  · rw [h, finish_enr]
  · rw [h, enterWait_enr, writeBit_cr_enr]

/-- SYS_SET writes CFGR only (R130). -/
@[simp] theorem sysSet_enr (val : Nat) (s : State) : (sysSet val s).enr = s.enr := by
  obtain ⟨-, h⟩ | ⟨-, h⟩ := sysSet_cases val s
  · rw [h, finish_enr]
  · rw [h, enterWait_enr, writeField_cfgr_enr]

/-- BYP_SET writes CR only (R140). -/
@[simp] theorem bypSet_enr (val : Nat) (s : State) : (bypSet val s).enr = s.enr := by
  obtain ⟨-, h⟩ | ⟨-, h⟩ := bypSet_cases val s
  · rw [h, finish_enr]
  · rw [h, finish_enr, writeBit_cr_enr]

/-- PLL_SRC writes PLLCFGR only (R152). -/
@[simp] theorem pllSource_enr (src : Nat) (s : State) : (pllSource src s).enr = s.enr := by
  obtain ⟨-, h⟩ | ⟨-, h⟩ := pllSource_cases src s
  · rw [h, finish_enr]
  · rw [h, goto_enr, writeBit_pllcfgr_enr]

/-- PLL_CHK_N writes no register (R153). -/
@[simp] theorem pllCheckN_enr (n : Nat) (s : State) : (pllCheckN n s).enr = s.enr := by
  obtain ⟨-, h⟩ | ⟨-, h⟩ := pllCheckN_cases n s
  · rw [h, goto_enr]
  · rw [h, finish_enr]

/-- PLL_CHK_M writes no register (R154). -/
@[simp] theorem pllCheckM_enr (m : Nat) (s : State) : (pllCheckM m s).enr = s.enr := by
  obtain ⟨-, h⟩ | ⟨-, h⟩ := pllCheckM_cases m s
  · rw [h, goto_enr]
  · rw [h, finish_enr]

/-- PLL_P writes PLLCFGR only (R156). -/
@[simp] theorem pllWriteCode_enr (m p : Nat) (s : State) : (pllWriteCode m p s).enr = s.enr := by
  obtain ⟨-, h⟩ | ⟨_, -, h⟩ := pllWriteCode_cases m p s
  · rw [h, finish_enr]
  · rw [h, goto_enr, writeField_pllcfgr_enr]

/-! ### The commands that write no gate -/

/-- CLK_ENABLE writes no ENR register (R34). -/
theorem exec_clkEnable_enr {src : Nat} {s t : State} (h : exec (.clkEnable src) s = .next t) :
    t.enr = s.enr := by
  obtain ⟨-, rfl⟩ | ⟨-, rfl⟩ | ⟨-, c, -, rfl⟩ := execClkEnable_cases h
  · exact goto_enr s _
  · exact clkSet_enr src true s
  · exact waitUntil_enr s _ _ fun u => finish_enr u _

/-- CLK_DISABLE writes no ENR register (R34). -/
theorem exec_clkDisable_enr {src : Nat} {s t : State} (h : exec (.clkDisable src) s = .next t) :
    t.enr = s.enr := by
  obtain ⟨-, rfl⟩ | ⟨-, rfl⟩ | ⟨-, c, -, rfl⟩ := execClkDisable_cases h
  · exact goto_enr s _
  · exact clkSet_enr src false s
  · exact waitUntil_enr s _ _ fun u => finish_enr u _

/-- SYSCLK_SELECT writes no ENR register (R34). -/
theorem exec_sysclkSelect_enr {val : Nat} {s t : State}
    (h : exec (.sysclkSelect val) s = .next t) : t.enr = s.enr := by
  obtain ⟨-, rfl⟩ | ⟨-, rfl⟩ | ⟨-, rfl⟩ := execSysclkSelect_cases h
  · exact goto_enr s _
  · exact sysSet_enr val s
  · exact waitUntil_enr s _ _ fun u => finish_enr u _

/-- HSE_BYPASS writes no ENR register (R34). -/
theorem exec_hseBypass_enr {val : Nat} {s t : State} (h : exec (.hseBypass val) s = .next t) :
    t.enr = s.enr := by
  obtain ⟨-, rfl⟩ | ⟨-, rfl⟩ := execHseBypass_cases h
  · exact goto_enr s _
  · exact bypSet_enr val s

/-- PLL_CONFIG writes no ENR register (R34). -/
theorem exec_pllConfig_enr {src m n p : Nat} {s t : State}
    (h : exec (.pllConfig src m n p) s = .next t) : t.enr = s.enr := by
  obtain ⟨-, rfl⟩ | ⟨-, rfl⟩ | ⟨-, rfl⟩ | ⟨-, rfl⟩ | ⟨-, rfl⟩ | ⟨-, rfl⟩ | ⟨-, rfl⟩ | ⟨-, rfl⟩ |
    ⟨-, rfl⟩ | ⟨-, rfl⟩ := execPllConfig_cases h
  · exact goto_enr s _
  · rw [pllOff, enterWait_enr, writeBit_cr_enr]
  · exact waitUntil_enr s _ _ fun u => goto_enr u _
  · exact pllSource_enr src s
  · exact pllCheckN_enr n s
  · exact pllCheckM_enr m s
  · rw [pllWriteFactors, goto_enr, writeField_pllcfgr_enr]
  · exact pllWriteCode_enr m p s
  · rw [pllTurnOn, enterWait_enr, writeBit_cr_enr]
  · exact waitUntil_enr s _ _ fun u => finish_enr u _

/-! ### The commands that write a gate -/

/-- The command that asks a gate for the value `on` (R170, R171). -/
def gateCommand (bus : Bus) (pos : Nat) (on : Bool) : Instr :=
  if on then .periphEnable bus pos else .periphDisable bus pos

/-- A gate is read from the ENR registers alone (R172). -/
theorem gate_congr {s t : State} (h : t.enr = s.enr) (b : Bus) (i : Nat) :
    gate t b i = gate s b i := by
  rw [gate, gate, h]

/-- A gate that the GATE_SET step changes is the one the command names, and takes the value the
command asks for (R170, R171, R173). -/
theorem gate_changed_by_gateSet {bus : Bus} {pos : Nat} {on : Bool} {s : State} {b : Bus} {i : Nat}
    (h : gate (gateSet bus pos on s) b i ≠ gate s b i) :
    b = bus ∧ i = pos ∧ gate (gateSet bus pos on s) b i = on := by
  obtain ⟨-, hset⟩ | ⟨hpos, hset⟩ := gateSet_cases bus pos on s
  · rw [hset] at h
    exact absurd (gate_congr (finish_enr s _) b i) h
  · have hgate : gate (gateSet bus pos on s) b i = if b = bus ∧ i = pos then on else gate s b i := by
      rw [hset, gate_congr (finish_enr _ _), gate_writeBit s bus pos on hpos]
    by_cases hnamed : b = bus ∧ i = pos
    · rw [if_pos hnamed] at hgate
      exact ⟨hnamed.1, hnamed.2, hgate⟩
    · rw [if_neg hnamed] at hgate
      exact absurd hgate h

/-- What the steps of the two gate commands do (R170, R171). -/
theorem exec_gateCommand_cases {bus : Bus} {pos : Nat} {on : Bool} {s t : State}
    (h : exec (gateCommand bus pos on) s = .next t) :
    (s.phase = .decode ∧ t = s.goto .gateSet) ∨
    (s.phase = .gateSet ∧ t = gateSet bus pos on s) := by
  cases on with
  | true => exact execPeriphEnable_cases h
  | false => exact execPeriphDisable_cases h

/-- A gate command changes a gate only in GATE_SET, and only the gate it names, to the value it asks
for (R172). -/
theorem gate_changed_by_gateCommand {bus : Bus} {pos : Nat} {on : Bool} {s t : State} {b : Bus}
    {i : Nat} (h : exec (gateCommand bus pos on) s = .next t) (hne : gate t b i ≠ gate s b i) :
    s.phase = .gateSet ∧ gateCommand bus pos on = gateCommand b i (gate t b i) := by
  obtain ⟨-, rfl⟩ | ⟨hphase, rfl⟩ := exec_gateCommand_cases h
  · exact absurd (gate_congr (goto_enr s _) b i) hne
  · obtain ⟨rfl, rfl, hvalue⟩ := gate_changed_by_gateSet hne
    exact ⟨hphase, by rw [hvalue]⟩

/-! ### Every step -/

/-- A command that changes a gate is that gate's own command, in GATE_SET (R172). -/
theorem gate_changed_by_exec {c : Instr} {s t : State} {b : Bus} {i : Nat}
    (h : exec c s = .next t) (hne : gate t b i ≠ gate s b i) :
    s.phase = .gateSet ∧ c = gateCommand b i (gate t b i) := by
  cases c with
  | clkEnable src => exact absurd (gate_congr (exec_clkEnable_enr h) b i) hne
  | clkDisable src => exact absurd (gate_congr (exec_clkDisable_enr h) b i) hne
  | sysclkSelect val => exact absurd (gate_congr (exec_sysclkSelect_enr h) b i) hne
  | hseBypass val => exact absurd (gate_congr (exec_hseBypass_enr h) b i) hne
  | pllConfig src m n p => exact absurd (gate_congr (exec_pllConfig_enr h) b i) hne
  | periphEnable bus pos => exact gate_changed_by_gateCommand (on := true) h hne
  | periphDisable bus pos => exact gate_changed_by_gateCommand (on := false) h hne

/-- A controller step that changes a gate is the GATE_SET step of that gate's own command (R172). -/
theorem gate_changed_by_controllerStep {s t : State} {b : Bus} {i : Nat}
    (h : controllerStep s = .next t) (hne : gate t b i ≠ gate s b i) :
    s.phase = .gateSet ∧ Runs s (gateCommand b i (gate t b i)) := by
  obtain ⟨-, rfl⟩ | ⟨-, c, hruns, hexec⟩ | ⟨-, -, rfl⟩ := controllerStep_cases h
  · exact absurd rfl hne
  · obtain ⟨hphase, rfl⟩ := gate_changed_by_exec hexec hne
    exact ⟨hphase, hruns⟩
  · exact absurd (gate_congr (finish_enr s _) b i) hne

/-- A step of any agent that changes a gate is a reset, or the GATE_SET step of that gate's own
command (R172). -/
theorem gate_changed_by_step {s t : State} {b : Bus} {i : Nat} (h : step s = .next t)
    (hne : gate t b i ≠ gate s b i) :
    resetIsNext s = true ∨ (s.phase = .gateSet ∧ Runs s (gateCommand b i (gate t b i))) := by
  obtain ⟨hctl, -⟩ | ⟨rest, m, hsched, hmove⟩ := step_cases h
  · exact .inr (gate_changed_by_controllerStep hctl hne)
  · obtain ⟨-, hctl⟩ | ⟨c, -, rfl⟩ | ⟨-, rfl⟩ | ⟨w, -, -, rfl⟩ | ⟨a, n, -, rfl⟩ | ⟨-, rfl⟩ |
      ⟨rfl, -⟩ := hmove
    · exact .inr (gate_changed_by_controllerStep (s := { s with schedule := rest }) hctl hne)
    · exact absurd (gate_congr (envReady_enr _ c) b i) hne
    · exact absurd (gate_congr (envSwitch_enr _) b i) hne
    · exact absurd (gate_congr (issueWord_enr _ w) b i) hne
    · exact absurd (gate_congr (hostRead_enr _ a n) b i) hne
    · exact absurd (gate_congr (hostStatus_enr _) b i) hne
    · exact .inl (by simp [resetIsNext, hsched])

/-- Settles O42: the gate's value after the step says which of its two commands has written it. -/
theorem gateChangesOnlyByItsCommand : Obligations.GateChangesOnlyByItsCommand := by
  refine ⟨fun s i => ⟨rfl, rfl, rfl, rfl⟩, fun s t b i hstep hne => ?_⟩
  obtain hreset | ⟨hphase, hruns⟩ := gate_changed_by_step hstep hne
  · exact .inl hreset
  · cases hvalue : gate t b i with
    | true => exact .inr (.inl ⟨hphase, by simpa [hvalue, gateCommand] using hruns, rfl⟩)
    | false => exact .inr (.inr ⟨hphase, by simpa [hvalue, gateCommand] using hruns, rfl⟩)

end Sys2Proof.Machine
end

section
/-! PROOFS. Statuses and the clock environment (60_exceptions.md). First, which steps write CR and
CFGR: a controller step writes no ready bit and not SWS, so only the environment's moves and a reset
can change them (R190, R191). Then, why a command ends (R181): a poll that finds its condition false
is a failed poll, a failed operand check ends the command at once, and every other step of a command
leaves it running or ends it OK. -/

namespace Sys2Proof.Machine

/-! ### What a controller step writes in CR and CFGR -/

/-- CR, CFGR and the parameters, on which the ready bits and SWS depend, are the same in both
states. -/
structure SameClockRegs (s t : State) : Prop where
  cfg : t.cfg = s.cfg
  cr : t.cr = s.cr
  cfgr : t.cfgr = s.cfgr

/-- The writes of CR and CFGR that a controller step can make: none, one enable bit, HSEBYP or SW
(10_state.md R33, R34). -/
inductive ControllerWrite (s t : State) : Prop
  | nothing (same : SameClockRegs s t)
  | enableBit (c : ClockSource) (on : Bool)
      (same : SameClockRegs (s.writeBit .cr (onBit s.cfg c) on) t)
  | bypass (b : Bool) (same : SameClockRegs (s.writeBit .cr hseBypBit b) t)
  | selector (v : BitVec 2) (same : SameClockRegs (s.writeField .cfgr swLo v) t)

theorem isReady_congr {s t : State} (h : SameClockRegs s t) (c : ClockSource) :
    t.isReady c = s.isReady c := by
  rw [State.isReady, State.isReady, h.cr, h.cfg]

theorem sws_congr {s t : State} (h : SameClockRegs s t) : t.sws = s.sws := by
  rw [State.sws, State.sws, h.cfgr]

/-- No controller write reaches a ready bit (R33, R190). -/
theorem isReady_of_controllerWrite {s t : State} (hl : s.cfg.Legal) (h : ControllerWrite s t)
    (c : ClockSource) : t.isReady c = s.isReady c := by
  cases h with
  | nothing same => exact isReady_congr same c
  | enableBit d on same => rw [isReady_congr same, isReady_writeOn s hl]
  | bypass b same => rw [isReady_congr same, isReady_writeByp s hl]
  | selector v same => rw [isReady_congr same, isReady_writeField_cfgr]

/-- No controller write reaches SWS (R33, R191). -/
theorem sws_of_controllerWrite {s t : State} (h : ControllerWrite s t) : t.sws = s.sws := by
  cases h with
  | nothing same => exact sws_congr same
  | enableBit d on same => rw [sws_congr same, sws_writeBit_cr]
  | bypass b same => rw [sws_congr same, sws_writeBit_cr]
  | selector v same => rw [sws_congr same, sws_writeSw]

/-! ### The phases -/

/-- A poll writes nothing where what follows the wait writes nothing (R105). -/
theorem waitUntil_sameClockRegs (s : State) (cond : Bool) (next : State → State)
    (hnext : ∀ u, SameClockRegs u (next u)) : SameClockRegs s (s.waitUntil cond next) := by
  obtain ⟨-, h⟩ | ⟨-, h⟩ := waitUntil_cases s cond next
  · obtain ⟨hcfg, hcr, hcfgr⟩ := hnext { s with waitCount := 0 }
    rw [h]
    exact ⟨hcfg, hcr, hcfgr⟩
  · rw [h]
    obtain ⟨-, h⟩ | ⟨_, -, -, h⟩ | ⟨_, -, -, h⟩ := failedPoll_cases s <;> rw [h] <;>
      exact ⟨rfl, rfl, rfl⟩

/-- CLK_SET writes at most an enable bit (R120, R121). -/
theorem clkSet_controllerWrite (src : Nat) (on : Bool) (s : State) :
    ControllerWrite s (clkSet src on s) := by
  obtain ⟨-, h⟩ | ⟨c, -, h⟩ := clkSet_cases src on s <;> rw [h]
  · exact .nothing ⟨rfl, rfl, rfl⟩
  · exact .enableBit c on ⟨rfl, rfl, rfl⟩

/-- SYS_SET writes at most SW (R130). -/
theorem sysSet_controllerWrite (val : Nat) (s : State) : ControllerWrite s (sysSet val s) := by
  obtain ⟨-, h⟩ | ⟨-, h⟩ := sysSet_cases val s <;> rw [h]
  · exact .nothing ⟨rfl, rfl, rfl⟩
  · exact .selector _ ⟨rfl, rfl, rfl⟩

/-- BYP_SET writes at most HSEBYP (R140). -/
theorem bypSet_controllerWrite (val : Nat) (s : State) : ControllerWrite s (bypSet val s) := by
  obtain ⟨-, h⟩ | ⟨-, h⟩ := bypSet_cases val s <;> rw [h]
  · exact .nothing ⟨rfl, rfl, rfl⟩
  · exact .bypass _ ⟨rfl, rfl, rfl⟩

/-- PLL_SRC writes neither CR nor CFGR (R152). -/
theorem pllSource_sameClockRegs (src : Nat) (s : State) : SameClockRegs s (pllSource src s) := by
  obtain ⟨-, h⟩ | ⟨-, h⟩ := pllSource_cases src s <;> rw [h] <;> exact ⟨rfl, rfl, rfl⟩

/-- PLL_CHK_N writes neither CR nor CFGR (R153). -/
theorem pllCheckN_sameClockRegs (n : Nat) (s : State) : SameClockRegs s (pllCheckN n s) := by
  obtain ⟨-, h⟩ | ⟨-, h⟩ := pllCheckN_cases n s <;> rw [h] <;> exact ⟨rfl, rfl, rfl⟩

/-- PLL_CHK_M writes neither CR nor CFGR (R154). -/
theorem pllCheckM_sameClockRegs (m : Nat) (s : State) : SameClockRegs s (pllCheckM m s) := by
  obtain ⟨-, h⟩ | ⟨-, h⟩ := pllCheckM_cases m s <;> rw [h] <;> exact ⟨rfl, rfl, rfl⟩

/-- PLL_P writes neither CR nor CFGR (R156). -/
theorem pllWriteCode_sameClockRegs (m p : Nat) (s : State) :
    SameClockRegs s (pllWriteCode m p s) := by
  obtain ⟨-, h⟩ | ⟨_, -, h⟩ := pllWriteCode_cases m p s <;> rw [h] <;> exact ⟨rfl, rfl, rfl⟩

/-- GATE_SET writes neither CR nor CFGR (R170, R171). -/
theorem gateSet_sameClockRegs (bus : Bus) (pos : Nat) (on : Bool) (s : State) :
    SameClockRegs s (gateSet bus pos on s) := by
  obtain ⟨-, h⟩ | ⟨-, h⟩ := gateSet_cases bus pos on s <;> rw [h] <;> exact ⟨rfl, rfl, rfl⟩

/-! ### The commands -/

/-- The command that asks a clock source for the value `on` of its enable bit (R120, R121). -/
def clkCommand (src : Nat) (on : Bool) : Instr := if on then .clkEnable src else .clkDisable src

/-- What the steps of CLK_ENABLE and CLK_DISABLE do (R120, R121). -/
theorem exec_clkCommand_cases {src : Nat} {on : Bool} {s t : State}
    (h : exec (clkCommand src on) s = .next t) :
    (s.phase = .decode ∧ t = s.goto .clkSet) ∨ (s.phase = .clkSet ∧ t = clkSet src on s) ∨
    (s.phase = .clkWait ∧ ∃ c, sourceOfId src = some c ∧
      t = s.waitUntil (s.isReady c == on) (fun u => u.finish .ok)) := by
  cases on with
  | true => exact execClkEnable_cases h
  | false => exact execClkDisable_cases h

theorem exec_clkCommand_controllerWrite {src : Nat} {on : Bool} {s t : State}
    (h : exec (clkCommand src on) s = .next t) : ControllerWrite s t := by
  obtain ⟨-, rfl⟩ | ⟨-, rfl⟩ | ⟨-, c, -, rfl⟩ := exec_clkCommand_cases h
  · exact .nothing ⟨rfl, rfl, rfl⟩
  · exact clkSet_controllerWrite src on s
  · exact .nothing (waitUntil_sameClockRegs s _ _ fun _ => ⟨rfl, rfl, rfl⟩)

theorem exec_sysclkSelect_controllerWrite {val : Nat} {s t : State}
    (h : exec (.sysclkSelect val) s = .next t) : ControllerWrite s t := by
  obtain ⟨-, rfl⟩ | ⟨-, rfl⟩ | ⟨-, rfl⟩ := execSysclkSelect_cases h
  · exact .nothing ⟨rfl, rfl, rfl⟩
  · exact sysSet_controllerWrite val s
  · exact .nothing (waitUntil_sameClockRegs s _ _ fun _ => ⟨rfl, rfl, rfl⟩)

theorem exec_hseBypass_controllerWrite {val : Nat} {s t : State}
    (h : exec (.hseBypass val) s = .next t) : ControllerWrite s t := by
  obtain ⟨-, rfl⟩ | ⟨-, rfl⟩ := execHseBypass_cases h
  · exact .nothing ⟨rfl, rfl, rfl⟩
  · exact bypSet_controllerWrite val s

theorem exec_pllConfig_controllerWrite {src m n p : Nat} {s t : State}
    (h : exec (.pllConfig src m n p) s = .next t) : ControllerWrite s t := by
  obtain ⟨-, rfl⟩ | ⟨-, rfl⟩ | ⟨-, rfl⟩ | ⟨-, rfl⟩ | ⟨-, rfl⟩ | ⟨-, rfl⟩ | ⟨-, rfl⟩ | ⟨-, rfl⟩ |
    ⟨-, rfl⟩ | ⟨-, rfl⟩ := execPllConfig_cases h
  · exact .nothing ⟨rfl, rfl, rfl⟩
  · exact .enableBit .pll false ⟨rfl, rfl, rfl⟩
  · exact .nothing (waitUntil_sameClockRegs s _ _ fun _ => ⟨rfl, rfl, rfl⟩)
  · exact .nothing (pllSource_sameClockRegs src s)
  · exact .nothing (pllCheckN_sameClockRegs n s)
  · exact .nothing (pllCheckM_sameClockRegs m s)
  · exact .nothing ⟨rfl, rfl, rfl⟩
  · exact .nothing (pllWriteCode_sameClockRegs m p s)
  · exact .enableBit .pll true ⟨rfl, rfl, rfl⟩
  · exact .nothing (waitUntil_sameClockRegs s _ _ fun _ => ⟨rfl, rfl, rfl⟩)

theorem exec_gateCommand_controllerWrite {bus : Bus} {pos : Nat} {on : Bool} {s t : State}
    (h : exec (gateCommand bus pos on) s = .next t) : ControllerWrite s t := by
  obtain ⟨-, rfl⟩ | ⟨-, rfl⟩ := exec_gateCommand_cases h
  · exact .nothing ⟨rfl, rfl, rfl⟩
  · exact .nothing (gateSet_sameClockRegs bus pos on s)

theorem exec_controllerWrite {i : Instr} {s t : State} (h : exec i s = .next t) :
    ControllerWrite s t := by
  cases i with
  | clkEnable src => exact exec_clkCommand_controllerWrite (on := true) h
  | clkDisable src => exact exec_clkCommand_controllerWrite (on := false) h
  | sysclkSelect val => exact exec_sysclkSelect_controllerWrite h
  | hseBypass val => exact exec_hseBypass_controllerWrite h
  | pllConfig src m n p => exact exec_pllConfig_controllerWrite h
  | periphEnable bus pos => exact exec_gateCommand_controllerWrite (on := true) h
  | periphDisable bus pos => exact exec_gateCommand_controllerWrite (on := false) h

/-! ### Every step -/

theorem controllerStep_controllerWrite {s t : State} (h : controllerStep s = .next t) :
    ControllerWrite s t := by
  obtain ⟨-, rfl⟩ | ⟨-, i, -, hexec⟩ | ⟨-, -, rfl⟩ := controllerStep_cases h
  · exact .nothing ⟨rfl, rfl, rfl⟩
  · exact exec_controllerWrite hexec
  · exact .nothing ⟨rfl, rfl, rfl⟩

/-- Which moves are to come does not matter for what is written. -/
theorem controllerWrite_of_schedule {s t : State} {rest : List Move}
    (h : ControllerWrite { s with schedule := rest } t) : ControllerWrite s t := by
  cases h with
  | nothing same => exact .nothing ⟨same.cfg, same.cr, same.cfgr⟩
  | enableBit c on same => exact .enableBit c on ⟨same.cfg, same.cr, same.cfgr⟩
  | bypass b same => exact .bypass b ⟨same.cfg, same.cr, same.cfgr⟩
  | selector v same => exact .selector v ⟨same.cfg, same.cr, same.cfgr⟩

/-- The next step is the enabled ready-bit move of `c` and leads to `t` (R190). -/
def EnvReadyMoves (s t : State) (c : ClockSource) : Prop :=
  s.isReady c ≠ s.isOn c ∧ ∃ rest, s.schedule = .envReady c :: rest ∧
    t = ({ s with schedule := rest } : State).writeBit .cr (rdyBit s.cfg c) (s.isOn c)

/-- The next step is the enabled switch move and leads to `t` (R191). -/
def EnvSwitchMoves (s t : State) : Prop :=
  s.sws ≠ s.sw ∧ ∃ rest, s.schedule = .envSwitch :: rest ∧
    t = ({ s with schedule := rest } : State).writeField .cfgr swsLo s.sw

/-- But for a reset and the enabled moves of the environment, every agent's step writes CR and CFGR
only as the controller may (R33, R190, R191). -/
theorem step_writes {s t : State} (h : step s = .next t) (hreset : resetIsNext s = false) :
    (∃ c, EnvReadyMoves s t c) ∨ EnvSwitchMoves s t ∨ ControllerWrite s t := by
  obtain ⟨hctl, -⟩ | ⟨rest, m, hsched, hmove⟩ := step_cases h
  · exact .inr (.inr (controllerStep_controllerWrite hctl))
  · obtain ⟨-, hctl⟩ | ⟨c, rfl, rfl⟩ | ⟨rfl, rfl⟩ | ⟨w, -, -, rfl⟩ | ⟨a, n, -, rfl⟩ | ⟨-, rfl⟩ |
      ⟨rfl, -⟩ := hmove
    · exact .inr (.inr (controllerWrite_of_schedule (controllerStep_controllerWrite hctl)))
    · obtain ⟨-, hsame⟩ | ⟨hne, hset⟩ := envReady_cases { s with schedule := rest } c
      · rw [hsame]
        exact .inr (.inr (.nothing ⟨rfl, rfl, rfl⟩))
      · exact .inl ⟨c, hne, rest, hsched, hset⟩
    · obtain ⟨-, hsame⟩ | ⟨hne, hset⟩ := envSwitch_cases { s with schedule := rest }
      · rw [hsame]
        exact .inr (.inr (.nothing ⟨rfl, rfl, rfl⟩))
      · exact .inr (.inl ⟨hne, rest, hsched, hset⟩)
    · exact .inr (.inr (.nothing ⟨rfl, rfl, rfl⟩))
    · obtain ⟨_, -, hread⟩ | ⟨-, hread⟩ := hostRead_cases { s with schedule := rest } a n <;>
        rw [hread] <;> exact .inr (.inr (.nothing ⟨rfl, rfl, rfl⟩))
    · exact .inr (.inr (.nothing ⟨rfl, rfl, rfl⟩))
    · simp [resetIsNext, hsched] at hreset

/-! ### The environment's moves -/

/-- An enabled ready-bit move writes the enable bit's value into the ready bit (R190). -/
theorem step_envReady {s : State} {c : ClockSource} {rest : List Move}
    (hsched : s.schedule = .envReady c :: rest) (hne : s.isReady c ≠ s.isOn c) :
    step s = .next
      (({ s with schedule := rest } : State).writeBit .cr (rdyBit s.cfg c) (s.isOn c)) := by
  obtain ⟨heq, -⟩ | ⟨-, hset⟩ := envReady_cases { s with schedule := rest } c
  · exact absurd heq hne
  · simp only [step, agentStep, hsched]
    exact congrArg _ hset

/-- An enabled switch move writes SW's value into SWS (R191). -/
theorem step_envSwitch {s : State} {rest : List Move}
    (hsched : s.schedule = .envSwitch :: rest) (hne : s.sws ≠ s.sw) :
    step s = .next (({ s with schedule := rest } : State).writeField .cfgr swsLo s.sw) := by
  obtain ⟨heq, -⟩ | ⟨-, hset⟩ := envSwitch_cases { s with schedule := rest }
  · exact absurd heq hne
  · simp only [step, agentStep, hsched]
    exact congrArg _ hset

/-- The write of SWS leaves the bits of CFGR outside SWS (R27, R31). -/
theorem getLsbD_cfgr_writeSws (s : State) (v : BitVec 2) {j : Nat} (h2 : j ≠ 2) (h3 : j ≠ 3) :
    (s.writeField .cfgr swsLo v).cfgr.getLsbD j = s.cfgr.getLsbD j := by
  rw [writeField_cfgr_cfgr, getLsbD_setField, if_neg (by simp only [swsLo]; omega)]

/-- Settles O13: an enabled move is one write of its ready bit. Of the writes that a step but a reset
can make only a ready-bit move reaches a ready bit, and only its own source's. -/
theorem envReadyCopiesEnableBit : Obligations.EnvReadyCopiesEnableBit := by
  constructor
  · intro s c rest hlegal hsched hne
    exact ⟨_, step_envReady hsched hne, rfl, getLsbD_cr_writeBit _ (rdyBit_lt s.cfg hlegal c) _⟩
  · intro s t c hlegal hreset hstep hchanged
    obtain ⟨d, hne, rest, hsched, rfl⟩ | ⟨-, rest, -, rfl⟩ | hwrite := step_writes hstep hreset
    · have hready := isReady_writeRdy { s with schedule := rest } hlegal d
      have hon := isOn_writeRdy { s with schedule := rest } hlegal d
      by_cases hcd : c = d
      · subst hcd
        exact ⟨by rw [hsched]; rfl, hne, by rw [hready, if_pos rfl, hon]; rfl⟩
      · exact absurd (by rw [hready, if_neg hcd]; rfl) hchanged
    · exact absurd (isReady_writeField_cfgr _ _ _ c) hchanged
    · exact absurd (isReady_of_controllerWrite hlegal hwrite c) hchanged

/-- Settles O14: an enabled move is one write of SWS, and of the writes that a step but a reset can
make only this one reaches SWS. -/
theorem envSwitchCopiesSelector : Obligations.EnvSwitchCopiesSelector := by
  constructor
  · intro s rest hsched hne
    exact ⟨_, step_envSwitch hsched hne, rfl, sws_writeSws _ _,
      fun j h2 h3 => getLsbD_cfgr_writeSws _ _ h2 h3⟩
  · intro s t hreset hstep hchanged
    obtain ⟨d, -, rest, -, rfl⟩ | ⟨hne, rest, hsched, rfl⟩ | hwrite := step_writes hstep hreset
    · exact absurd (sws_writeBit_cr _ _ _) hchanged
    · exact ⟨by rw [hsched]; rfl, hne, by rw [sws_writeSws, sw_writeSws]; rfl⟩
    · exact absurd (sws_of_controllerWrite hwrite) hchanged

/-! ### The operand checks -/

theorem failsCheck_clkCommand {src : Nat} {on : Bool} {s : State} :
    FailsCheck (clkCommand src on) s ↔ s.phase = .clkSet ∧ 4 < src := by
  cases on <;> cases hp : s.phase <;> simp [FailsCheck, clkCommand, hp]

theorem failsCheck_sysclkSelect {val : Nat} {s : State} :
    FailsCheck (.sysclkSelect val) s ↔ s.phase = .sysSet ∧ 3 < val := by
  cases hp : s.phase <;> simp [FailsCheck, hp]

theorem failsCheck_hseBypass {val : Nat} {s : State} :
    FailsCheck (.hseBypass val) s ↔ s.phase = .bypSet ∧ 1 < val := by
  cases hp : s.phase <;> simp [FailsCheck, hp]

theorem failsCheck_pllConfig {src m n p : Nat} {s : State} :
    FailsCheck (.pllConfig src m n p) s ↔
      (s.phase = .pllSrc ∧ 1 < src) ∨ (s.phase = .pllChkN ∧ ¬ (50 ≤ n ∧ n ≤ 432)) ∨
      (s.phase = .pllChkM ∧ ¬ (2 ≤ m ∧ m ≤ 63)) ∨
      (s.phase = .pllP ∧ pcode (dividerOf s.cfg.pSource m p) = none) := by
  cases hp : s.phase <;> simp [FailsCheck, hp, pcode_none] <;> omega

theorem failsCheck_gateCommand {bus : Bus} {pos : Nat} {on : Bool} {s : State} :
    FailsCheck (gateCommand bus pos on) s ↔ s.phase = .gateSet ∧ 31 < pos := by
  cases on <;> cases hp : s.phase <;> simp [FailsCheck, gateCommand, hp]

/-- In CLK_SET, both clock source commands write the enable bit of their source (R120, R121). -/
theorem exec_clkCommand_clkSet (src : Nat) (on : Bool) {s : State} (hp : s.phase = .clkSet) :
    exec (clkCommand src on) s = .next (clkSet src on s) := by
  cases on with
  | true => exact exec_clkEnable_clkSet src hp
  | false => exact exec_clkDisable_clkSet src hp

/-- In GATE_SET, both gate commands write the gate bit (R170, R171). -/
theorem exec_gateCommand_gateSet (bus : Bus) (pos : Nat) (on : Bool) {s : State}
    (hp : s.phase = .gateSet) : exec (gateCommand bus pos on) s = .next (gateSet bus pos on s) := by
  cases on with
  | true => simp only [gateCommand, if_true, exec, execPeriphEnable, hp]
  | false => simp [gateCommand, exec, execPeriphDisable, hp]

/-- A GATE_SET step on a position above 31 only ends the command (R170). -/
theorem gateSet_of_gt {pos : Nat} (h : 31 < pos) (bus : Bus) (on : Bool) (s : State) :
    gateSet bus pos on s = endedWith s .invalidParameter := by
  obtain ⟨-, hset⟩ | ⟨hle, -⟩ := gateSet_cases bus pos on s
  · rw [hset, finish_eq_endedWith]
  · omega

theorem exec_clkCommand_of_failsCheck {src : Nat} {on : Bool} {s : State}
    (h : FailsCheck (clkCommand src on) s) :
    exec (clkCommand src on) s = .next (endedWith s .invalidParameter) := by
  obtain ⟨hp, hsrc⟩ := failsCheck_clkCommand.1 h
  rw [exec_clkCommand_clkSet src on hp, clkSet_of_unknown_source hsrc]

theorem exec_pllConfig_of_failsCheck {src m n p : Nat} {s : State}
    (h : FailsCheck (.pllConfig src m n p) s) :
    exec (.pllConfig src m n p) s = .next (endedWith s .invalidParameter) := by
  obtain ⟨hp, hsrc⟩ | ⟨hp, hn⟩ | ⟨hp, hm⟩ | ⟨hp, hcode⟩ := failsCheck_pllConfig.1 h
  · rw [exec_pllConfig_pllSrc src m n p hp, pllSource_of_gt hsrc]
  · rw [exec_pllConfig_pllChkN src m n p hp, pllCheckN_eq, if_neg hn]
  · rw [exec_pllConfig_pllChkM src m n p hp, pllCheckM_eq, if_neg hm]
  · rw [exec_pllConfig_pllP src m n p hp, pllWriteCode_of_no_code hcode]

theorem exec_gateCommand_of_failsCheck {bus : Bus} {pos : Nat} {on : Bool} {s : State}
    (h : FailsCheck (gateCommand bus pos on) s) :
    exec (gateCommand bus pos on) s = .next (endedWith s .invalidParameter) := by
  obtain ⟨hp, hpos⟩ := failsCheck_gateCommand.1 h
  rw [exec_gateCommand_gateSet bus pos on hp, gateSet_of_gt hpos]

/-- A command that fails the check of its phase ends INVALID_PARAMETER in that step and writes no
register (R181). -/
theorem exec_of_failsCheck {i : Instr} {s : State} (h : FailsCheck i s) :
    exec i s = .next (endedWith s .invalidParameter) := by
  cases i with
  | clkEnable src => exact exec_clkCommand_of_failsCheck (on := true) h
  | clkDisable src => exact exec_clkCommand_of_failsCheck (on := false) h
  | sysclkSelect val =>
    obtain ⟨hp, hval⟩ := failsCheck_sysclkSelect.1 h
    rw [exec_sysclkSelect_sysSet val hp, sysSet_of_gt hval]
  | hseBypass val =>
    obtain ⟨hp, hval⟩ := failsCheck_hseBypass.1 h
    rw [exec_hseBypass_bypSet val hp, bypSet_of_gt hval]
  | pllConfig src m n p => exact exec_pllConfig_of_failsCheck h
  | periphEnable bus pos => exact exec_gateCommand_of_failsCheck (on := true) h
  | periphDisable bus pos => exact exec_gateCommand_of_failsCheck (on := false) h

/-! ### A step that fails neither a check nor a poll -/

/-- The command still runs in `t`, or has ended OK. -/
def RunsOnOrEndsOk (s t : State) : Prop := t.busy = s.busy ∨ t.lastStatus = some .ok

/-- A poll that finds its condition true does what follows the wait (R105). -/
theorem waitUntil_of_true {s : State} {cond : Bool} (h : some cond ≠ some false)
    (next : State → State) : s.waitUntil cond next = next { s with waitCount := 0 } := by
  obtain ⟨-, htrue⟩ | ⟨hfalse, -⟩ := waitUntil_cases s cond next
  · exact htrue
  · exact absurd (congrArg some hfalse) h

/-- In CLK_WAIT both clock source commands wait for the requested ready bit (R120, R121). -/
theorem waitCond_clkCommand {src : Nat} {on : Bool} {s : State} {c : ClockSource}
    (hp : s.phase = .clkWait) (hc : sourceOfId src = some c) :
    waitCond (clkCommand src on) s = some (s.isReady c == on) := by
  cases on <;> simp [waitCond, clkCommand, hp, hc]

/-- In SYS_WAIT, SYSCLK_SELECT waits for SWS (R130). -/
theorem waitCond_sysWait (val : Nat) {s : State} (hp : s.phase = .sysWait) :
    waitCond (.sysclkSelect val) s = some (s.sws.toNat == val) := by
  simp only [waitCond, hp]

/-- In PLL_OFF_WAIT, PLL_CONFIG waits for PLLRDY = 0 (R151). -/
theorem waitCond_pllOffWait (src m n p : Nat) {s : State} (hp : s.phase = .pllOffWait) :
    waitCond (.pllConfig src m n p) s = some (!s.isReady .pll) := by
  simp only [waitCond, hp]

/-- In PLL_ON_WAIT, PLL_CONFIG waits for PLLRDY = 1 (R157). -/
theorem waitCond_pllOnWait (src m n p : Nat) {s : State} (hp : s.phase = .pllOnWait) :
    waitCond (.pllConfig src m n p) s = some (s.isReady .pll) := by
  simp only [waitCond, hp]

theorem clkCommand_runsOnOrEndsOk {src : Nat} {on : Bool} {s t : State}
    (h : exec (clkCommand src on) s = .next t) (hcheck : ¬ FailsCheck (clkCommand src on) s)
    (hwait : waitCond (clkCommand src on) s ≠ some false) : RunsOnOrEndsOk s t := by
  rw [failsCheck_clkCommand] at hcheck
  obtain ⟨-, rfl⟩ | ⟨hp, rfl⟩ | ⟨hp, c, hc, rfl⟩ := exec_clkCommand_cases h
  · exact .inl rfl
  · obtain ⟨hnone, -⟩ | ⟨c, -, hset⟩ := clkSet_cases src on s
    · exact absurd ⟨hp, (sourceOfId_none src).1 hnone⟩ hcheck
    · exact .inl (by rw [hset, enterWait_busy, writeBit_busy])
  · rw [waitCond_clkCommand hp hc] at hwait
    exact .inr (by rw [waitUntil_of_true hwait, finish_lastStatus])

theorem sysclkSelect_runsOnOrEndsOk {val : Nat} {s t : State}
    (h : exec (.sysclkSelect val) s = .next t) (hcheck : ¬ FailsCheck (.sysclkSelect val) s)
    (hwait : waitCond (.sysclkSelect val) s ≠ some false) : RunsOnOrEndsOk s t := by
  rw [failsCheck_sysclkSelect] at hcheck
  obtain ⟨-, rfl⟩ | ⟨hp, rfl⟩ | ⟨hp, rfl⟩ := execSysclkSelect_cases h
  · exact .inl rfl
  · obtain ⟨hgt, -⟩ | ⟨-, hset⟩ := sysSet_cases val s
    · exact absurd ⟨hp, hgt⟩ hcheck
    · exact .inl (by rw [hset, enterWait_busy, writeField_busy])
  · rw [waitCond_sysWait val hp] at hwait
    exact .inr (by rw [sysWait, waitUntil_of_true hwait, finish_lastStatus])

theorem hseBypass_runsOnOrEndsOk {val : Nat} {s t : State}
    (h : exec (.hseBypass val) s = .next t) (hcheck : ¬ FailsCheck (.hseBypass val) s) :
    RunsOnOrEndsOk s t := by
  rw [failsCheck_hseBypass] at hcheck
  obtain ⟨-, rfl⟩ | ⟨hp, rfl⟩ := execHseBypass_cases h
  · exact .inl rfl
  · obtain ⟨hgt, -⟩ | ⟨-, hset⟩ := bypSet_cases val s
    · exact absurd ⟨hp, hgt⟩ hcheck
    · exact .inr (by rw [hset, finish_lastStatus])

theorem pllConfig_runsOnOrEndsOk {src m n p : Nat} {s t : State}
    (h : exec (.pllConfig src m n p) s = .next t)
    (hcheck : ¬ FailsCheck (.pllConfig src m n p) s)
    (hwait : waitCond (.pllConfig src m n p) s ≠ some false) : RunsOnOrEndsOk s t := by
  simp only [failsCheck_pllConfig, not_or] at hcheck
  obtain ⟨hsrc, hn, hm, hcode⟩ := hcheck
  obtain ⟨-, rfl⟩ | ⟨-, rfl⟩ | ⟨hp, rfl⟩ | ⟨hp, rfl⟩ | ⟨hp, rfl⟩ | ⟨hp, rfl⟩ | ⟨-, rfl⟩ |
    ⟨hp, rfl⟩ | ⟨-, rfl⟩ | ⟨hp, rfl⟩ := execPllConfig_cases h
  · exact .inl rfl
  · exact .inl rfl
  · rw [waitCond_pllOffWait src m n p hp] at hwait
    exact .inl (by rw [pllOffWait, waitUntil_of_true hwait, goto_busy])
  · obtain ⟨hgt, -⟩ | ⟨-, hset⟩ := pllSource_cases src s
    · exact absurd ⟨hp, hgt⟩ hsrc
    · exact .inl (by rw [hset, goto_busy, writeBit_busy])
  · obtain ⟨-, hset⟩ | ⟨hout, -⟩ := pllCheckN_cases n s
    · exact .inl (by rw [hset, goto_busy])
    · exact absurd ⟨hp, hout⟩ hn
  · obtain ⟨-, hset⟩ | ⟨hout, -⟩ := pllCheckM_cases m s
    · exact .inl (by rw [hset, goto_busy])
    · exact absurd ⟨hp, hout⟩ hm
  · exact .inl rfl
  · obtain ⟨hnone, -⟩ | ⟨_, -, hset⟩ := pllWriteCode_cases m p s
    · exact absurd ⟨hp, hnone⟩ hcode
    · exact .inl (by rw [hset, goto_busy, writeField_busy])
  · exact .inl rfl
  · rw [waitCond_pllOnWait src m n p hp] at hwait
    exact .inr (by rw [pllOnWait, waitUntil_of_true hwait, finish_lastStatus])

theorem gateCommand_runsOnOrEndsOk {bus : Bus} {pos : Nat} {on : Bool} {s t : State}
    (h : exec (gateCommand bus pos on) s = .next t)
    (hcheck : ¬ FailsCheck (gateCommand bus pos on) s) : RunsOnOrEndsOk s t := by
  rw [failsCheck_gateCommand] at hcheck
  obtain ⟨-, rfl⟩ | ⟨hp, rfl⟩ := exec_gateCommand_cases h
  · exact .inl rfl
  · obtain ⟨hgt, -⟩ | ⟨-, hset⟩ := gateSet_cases bus pos on s
    · exact absurd ⟨hp, hgt⟩ hcheck
    · exact .inr (by rw [hset, finish_lastStatus])

/-- A command that fails neither the check nor the poll of its phase runs on or ends OK (R181). -/
theorem exec_runsOnOrEndsOk {i : Instr} {s t : State} (h : exec i s = .next t)
    (hcheck : ¬ FailsCheck i s) (hwait : waitCond i s ≠ some false) : RunsOnOrEndsOk s t := by
  cases i with
  | clkEnable src => exact clkCommand_runsOnOrEndsOk (on := true) h hcheck hwait
  | clkDisable src => exact clkCommand_runsOnOrEndsOk (on := false) h hcheck hwait
  | sysclkSelect val => exact sysclkSelect_runsOnOrEndsOk h hcheck hwait
  | hseBypass val => exact hseBypass_runsOnOrEndsOk h hcheck
  | pllConfig src m n p => exact pllConfig_runsOnOrEndsOk h hcheck hwait
  | periphEnable bus pos => exact gateCommand_runsOnOrEndsOk (on := true) h hcheck
  | periphDisable bus pos => exact gateCommand_runsOnOrEndsOk (on := false) h hcheck

/-! ### The ends of a command -/

/-- A failed poll that ends the command is the k-th one under `WAIT_BOUND` = k (R105). -/
theorem failedPoll_ends {s : State} (hbusy : s.busy = true) (hidle : s.failedPoll.busy = false) :
    s.failedPoll = endedWith s .hardwareTimeout ∧
      ∃ k, s.cfg.waitBound = some k ∧ s.waitCount + 1 = k := by
  obtain ⟨-, h⟩ | ⟨k, hk, hlast, h⟩ | ⟨_, -, -, h⟩ := failedPoll_cases s
  · simp [h, hbusy] at hidle
  · exact ⟨by rw [h, finish_eq_endedWith], k, hk, hlast⟩
  · simp [h, hbusy] at hidle

/-- The step of command `i` from `s` that ends it in `t` has one of the causes of R181. -/
inductive EndCause (i : Instr) (s t : State) : Prop
  | ok (status : t.lastStatus = some .ok) (check : ¬ FailsCheck i s)
      (wait : waitCond i s ≠ some false)
  | invalidParameter (frame : t = endedWith s .invalidParameter) (check : FailsCheck i s)
  | hardwareTimeout (frame : t = endedWith s .hardwareTimeout) (wait : waitCond i s = some false)
      (last : ∃ k, s.cfg.waitBound = some k ∧ s.waitCount + 1 = k)

theorem exec_endCause {i : Instr} {s t : State} (h : exec i s = .next t) (hbusy : s.busy = true)
    (hidle : t.busy = false) : EndCause i s t := by
  by_cases hwait : waitCond i s = some false
  · cases (exec_failedPoll i s hwait).symm.trans h
    obtain ⟨hframe, hlast⟩ := failedPoll_ends hbusy hidle
    exact .hardwareTimeout hframe hwait hlast
  · by_cases hcheck : FailsCheck i s
    · cases (exec_of_failsCheck hcheck).symm.trans h
      exact .invalidParameter rfl hcheck
    · obtain hbusy' | hok := exec_runsOnOrEndsOk h hcheck hwait
      · simp [hbusy', hbusy] at hidle
      · exact .ok hok hcheck hwait

/-- The step that ends a command is the controller's: no other agent but a reset clears `busy`
(R43). -/
theorem controllerStep_of_endsCommand {s t : State} (h : EndsCommand s t) :
    ∃ rest, controllerStep { s with schedule := rest } = .next t := by
  obtain ⟨hstep, hreset, hbusy, hidle⟩ := h
  have hchanged : t.busy ≠ s.busy := by simp [hbusy, hidle]
  obtain ⟨hctl, -⟩ | ⟨rest, m, hsched, hmove⟩ := step_cases hstep
  · exact ⟨s.schedule, hctl⟩
  · obtain ⟨-, hctl⟩ | ⟨c, -, rfl⟩ | ⟨-, rfl⟩ | ⟨w, -, hfree, -⟩ | ⟨a, n, -, rfl⟩ | ⟨-, rfl⟩ |
      ⟨rfl, -⟩ := hmove
    · exact ⟨rest, hctl⟩
    · obtain ⟨-, hset⟩ | ⟨-, hset⟩ := envReady_cases { s with schedule := rest } c
      · exact absurd (by rw [hset]) hchanged
      · exact absurd (by rw [hset, writeBit_busy]) hchanged
    · obtain ⟨-, hset⟩ | ⟨-, hset⟩ := envSwitch_cases { s with schedule := rest }
      · exact absurd (by rw [hset]) hchanged
      · exact absurd (by rw [hset, writeField_busy]) hchanged
    · simp [hbusy] at hfree
    · obtain ⟨_, -, hread⟩ | ⟨-, hread⟩ := hostRead_cases { s with schedule := rest } a n <;>
        exact absurd (by rw [hread]) hchanged
    · exact absurd (by rw [hostStatus_busy]) hchanged
    · simp [resetIsNext, hsched] at hreset

/-- Settles O48: the end is a controller step. It is the rejection of a word in DECODE, or the step
of the latched command, whose causes are those of its check and its poll. -/
theorem everyStatusHasItsCause : Obligations.EveryStatusHasItsCause := by
  intro s t hinv hends
  obtain ⟨rest, hctl⟩ := controllerStep_of_endsCommand hends
  obtain ⟨hphase, -⟩ | ⟨-, i, hruns, hexec⟩ | ⟨hphase, hword, rfl⟩ := controllerStep_cases hctl
  · exact absurd hphase (hinv.busyIff.1 hends.wasBusy)
  · obtain ⟨hok, hcheck, hwait⟩ | ⟨rfl, hcheck⟩ | ⟨rfl, hwait, k, hk, hlast⟩ :=
      exec_endCause hexec hends.wasBusy hends.nowIdle
    · exact .inl ⟨hok, i, hruns, hcheck, hwait⟩
    · exact .inr (.inr (.inl ⟨rfl, i, hruns, hcheck⟩))
    · exact .inr (.inr (.inr ⟨rfl, i, k, hruns, hwait, hk, hlast⟩))
  · exact .inr (.inl ⟨rfl, hphase, hword⟩)

end Sys2Proof.Machine
end

section
/-! PROOFS. What a controller step can do (40_command_cycle.md R104 to R108), said once for all seven
commands: it is a failed poll, a failed check, or it passes its phase. A step that passes writes at
most one field that the command owns (10_state.md R34), goes on to the next phase or ends OK, and
leaves what the invariant's `Progress` says of the phase it enters. -/

namespace Sys2Proof.Machine

/-! ### The vocabulary -/

/-- The phase that follows a phase which the command has passed; `none` after the last one (R102,
R120, R130, R140, R150, R170). -/
def nextPhase (i : Instr) : Phase → Option Phase
  | .decode => some (firstPhase i)
  | .clkSet => some .clkWait
  | .sysSet => some .sysWait
  | .pllOff => some .pllOffWait
  | .pllOffWait => some .pllSrc
  | .pllSrc => some .pllChkN
  | .pllChkN => some .pllChkM
  | .pllChkM => some .pllMn
  | .pllMn => some .pllP
  | .pllP => some .pllOn
  | .pllOn => some .pllOnWait
  | _ => none

/-- The bits that a command may write (10_state.md R34). -/
def OwnsBit (p : Params) : Instr → RegId → Nat → Prop
  | .clkEnable src, .cr, j => ∃ c, sourceOfId src = some c ∧ j = onBit p c
  | .clkDisable src, .cr, j => ∃ c, sourceOfId src = some c ∧ j = onBit p c
  | .sysclkSelect _, .cfgr, j => j < 2
  | .hseBypass _, .cr, j => j = 18
  | .pllConfig _ _ _ _, .cr, j => j = 24
  | .pllConfig _ _ _ _, .pllcfgr, j => j < 15 ∨ j = 16 ∨ j = 17 ∨ j = 22
  | .periphEnable bus pos, .enr b, j => b = bus ∧ j = pos
  | .periphDisable bus pos, .enr b, j => b = bus ∧ j = pos
  | _, _, _ => False

/-- The state after the register write of one phase of the command: none, or one field whose bits
the command owns (R31, R34). -/
inductive Written (i : Instr) (s : State) : State → Prop
  | nothing : Written i s s
  | field {n : Nat} (r : RegId) (lo : Nat) (v : BitVec n)
      (owned : ∀ j, lo ≤ j → j < lo + n → OwnsBit s.cfg i r j) : Written i s (s.writeField r lo v)

/-- What stands when the command has ended OK (R124, R132, R141, R160, R173). -/
def Achieved : Instr → State → Prop
  | .clkEnable src, t => ∃ c, sourceOfId src = some c ∧ t.isOn c = true ∧ t.isReady c = true
  | .clkDisable src, t => ∃ c, sourceOfId src = some c ∧ t.isOn c = false ∧ t.isReady c = false
  | .sysclkSelect val, t => t.sw.toNat = val ∧ t.sws.toNat = val
  | .hseBypass val, t => t.hseByp = (val == 1)
  | .pllConfig src m n p, t => (t.isOn .pll = true ∧ t.isReady .pll = true) ∧
      SourceWritten src t ∧ FactorsLegal m n ∧ FactorsWritten m n t ∧ CodeWritten m p t
  | .periphEnable bus pos, t => gate t bus pos = true
  | .periphDisable bus pos, t => gate t bus pos = false

/-- What the invariant says of the running command, in DECODE or past it. -/
structure Prepared (i : Instr) (s : State) : Prop where
  legal : s.cfg.Legal
  progress : s.phase ≠ .decode → Progress i s

/-- The step from `s` to `t` passes the phase of command `i`: with `u` the state after the phase's
write, it enters the next phase or ends OK. -/
inductive Passes (i : Instr) (s t : State) : Prop
  | goesOn (u : State) (ph : Phase) (write : Written i s u) (next : nextPhase i s.phase = some ph)
      (frame : t = { u with phase := ph, waitCount := t.waitCount })
      (count : t.waitCount = 0 ∨
        t.waitCount = s.waitCount ∧ isWaitPhase s.phase = false ∧ isWaitPhase ph = false)
      (progress : Prepared i s → Progress i t)
  | ends (u : State) (write : Written i s u) (frame : t = endedWith u .ok)
      (achieved : Prepared i s → Achieved i t)

/-- What one controller step of command `i` does (R105, R107, R108). -/
inductive Effect (i : Instr) (s t : State) : Prop
  | polls (wait : waitCond i s = some false) (result : t = s.failedPoll)
  | rejects (check : FailsCheck i s) (result : t = endedWith s .invalidParameter)
  | passes (passed : Passes i s t)

/-- A write of one bit that the command owns (R31). -/
theorem Written.bit {i : Instr} {s : State} (r : RegId) (k : Nat) (b : Bool)
    (owned : OwnsBit s.cfg i r k) : Written i s (s.writeBit r k b) :=
  .field r k (BitVec.ofBool b) fun j h1 h2 => (by omega : j = k) ▸ owned

/-- A step from a phase that writes nothing and counts nothing. -/
theorem Passes.goto {i : Instr} {s : State} {ph : Phase} (next : nextPhase i s.phase = some ph)
    (hs : isWaitPhase s.phase = false) (hph : isWaitPhase ph = false)
    (progress : Prepared i s → Progress i (s.goto ph)) : Passes i s (s.goto ph) :=
  .goesOn s ph .nothing next rfl (.inr ⟨rfl, hs, hph⟩) progress

/-! ### The clock source commands -/

theorem progress_clkCommand {src : Nat} {on : Bool} {s : State} :
    Progress (clkCommand src on) s ↔ s.phase = .decode ∨ s.phase = .clkSet ∨
      (s.phase = .clkWait ∧ ∃ c, sourceOfId src = some c ∧ s.isOn c = on) := by
  cases on <;> exact Iff.rfl

theorem achieved_clkCommand {src : Nat} {on : Bool} {t : State} :
    Achieved (clkCommand src on) t ↔ ∃ c, sourceOfId src = some c ∧ t.isOn c = on ∧
      t.isReady c = on := by
  cases on <;> exact Iff.rfl

theorem ownsBit_clkCommand {src : Nat} {on : Bool} {p : Params} {c : ClockSource}
    (hc : sourceOfId src = some c) : OwnsBit p (clkCommand src on) .cr (onBit p c) := by
  cases on <;> exact ⟨c, hc, rfl⟩

theorem clkCommand_passes {src : Nat} {on : Bool} {s t : State}
    (h : exec (clkCommand src on) s = .next t) (hcheck : ¬ FailsCheck (clkCommand src on) s)
    (hwait : waitCond (clkCommand src on) s ≠ some false) : Passes (clkCommand src on) s t := by
  rw [failsCheck_clkCommand] at hcheck
  obtain ⟨hp, rfl⟩ | ⟨hp, rfl⟩ | ⟨hp, c, hc, rfl⟩ := exec_clkCommand_cases h
  · exact .goto (by cases on <;> rw [hp] <;> rfl) (by rw [hp]; rfl) rfl
      fun _ => progress_clkCommand.2 (.inr (.inl rfl))
  · obtain ⟨hnone, -⟩ | ⟨c, hc, hset⟩ := clkSet_cases src on s
    · exact absurd ⟨hp, (sourceOfId_none src).1 hnone⟩ hcheck
    · rw [hset]
      refine .goesOn _ .clkWait (.bit .cr (onBit s.cfg c) on (ownsBit_clkCommand hc))
        (by rw [hp]; rfl) rfl (.inl rfl) fun hs => progress_clkCommand.2 ?_
      exact .inr (.inr ⟨rfl, c, hc, by rw [enterWait_isOn, isOn_writeOn s hs.legal, if_pos rfl]⟩)
  · rw [waitCond_clkCommand hp hc] at hwait
    rw [waitUntil_of_true hwait]
    refine .ends s .nothing rfl fun hs => achieved_clkCommand.2 ⟨c, hc, ?_, ?_⟩
    · obtain hp' | hp' | ⟨-, d, hd, hon⟩ :=
        progress_clkCommand.1 (hs.progress (by rw [hp]; decide))
      · simp [hp] at hp'
      · simp [hp] at hp'
      · cases hc.symm.trans hd
        exact hon
    · have hready : s.isReady c = on := by simpa using hwait
      exact hready

/-! ### SYSCLK_SELECT and HSE_BYPASS -/

theorem sysclkSelect_passes {val : Nat} {s t : State}
    (h : exec (.sysclkSelect val) s = .next t) (hcheck : ¬ FailsCheck (.sysclkSelect val) s)
    (hwait : waitCond (.sysclkSelect val) s ≠ some false) : Passes (.sysclkSelect val) s t := by
  rw [failsCheck_sysclkSelect] at hcheck
  obtain ⟨hp, rfl⟩ | ⟨hp, rfl⟩ | ⟨hp, rfl⟩ := execSysclkSelect_cases h
  · exact .goto (by rw [hp]; rfl) (by rw [hp]; rfl) rfl fun _ => .inr (.inl rfl)
  · obtain ⟨hgt, -⟩ | ⟨hle, hset⟩ := sysSet_cases val s
    · exact absurd ⟨hp, hgt⟩ hcheck
    · rw [hset]
      refine .goesOn _ .sysWait (.field .cfgr swLo _ fun j _ hj => hj) (by rw [hp]; rfl) rfl
        (.inl rfl) fun _ => .inr (.inr ⟨rfl, ?_⟩)
      rw [enterWait_sw, sw_writeSw, BitVec.toNat_ofNat, Nat.mod_eq_of_lt (by omega)]
  · rw [waitCond_sysWait val hp] at hwait
    rw [sysWait, waitUntil_of_true hwait]
    refine .ends s .nothing rfl fun hs => ⟨?_, ?_⟩
    · obtain hp' | hp' | ⟨-, hsw⟩ := hs.progress (by rw [hp]; decide)
      · simp [hp] at hp'
      · simp [hp] at hp'
      · exact hsw
    · have hsws : s.sws.toNat = val := by simpa using hwait
      exact hsws

theorem hseBypass_passes {val : Nat} {s t : State} (h : exec (.hseBypass val) s = .next t)
    (hcheck : ¬ FailsCheck (.hseBypass val) s) : Passes (.hseBypass val) s t := by
  rw [failsCheck_hseBypass] at hcheck
  obtain ⟨hp, rfl⟩ | ⟨hp, rfl⟩ := execHseBypass_cases h
  · exact .goto (by rw [hp]; rfl) (by rw [hp]; rfl) rfl fun _ => .inr rfl
  · obtain ⟨hgt, -⟩ | ⟨-, hset⟩ := bypSet_cases val s
    · exact absurd ⟨hp, hgt⟩ hcheck
    · rw [hset]
      refine .ends _ (.bit .cr hseBypBit (val == 1) rfl) rfl fun _ => ?_
      exact (getLsbD_cr_writeBit s (by decide : hseBypBit < 32) _ _).trans (if_pos rfl)

/-! ### PLL_CONFIG -/

/-- What PLL_CONFIG has written when it stands in a phase past DECODE (R150). -/
theorem Prepared.pllProgress {src m n p : Nat} {s : State} {ph : Phase}
    (h : Prepared (.pllConfig src m n p) s) (hp : s.phase = ph) (hne : ph ≠ .decode) :
    PllProgress src m n p s ph := by
  subst hp
  exact h.progress hne

/-- A step that leaves CR as it is leaves the PLL off (R161). -/
theorem PllIsOff.congr {s t : State} (h : PllIsOff s) (hsame : SameClockRegs s t) : PllIsOff t := by
  obtain ⟨hcfg, hcr, -⟩ := hsame
  exact ⟨by rw [State.isOn, hcr, hcfg]; exact h.off,
    by rw [State.isReady, hcr, hcfg]; exact h.unlocked⟩

theorem pllConfig_passes {src m n p : Nat} {s t : State}
    (h : exec (.pllConfig src m n p) s = .next t)
    (hcheck : ¬ FailsCheck (.pllConfig src m n p) s)
    (hwait : waitCond (.pllConfig src m n p) s ≠ some false) :
    Passes (.pllConfig src m n p) s t := by
  simp only [failsCheck_pllConfig, not_or] at hcheck
  obtain ⟨hsrc, hn, hm, hcode⟩ := hcheck
  obtain ⟨hp, rfl⟩ | ⟨hp, rfl⟩ | ⟨hp, rfl⟩ | ⟨hp, rfl⟩ | ⟨hp, rfl⟩ | ⟨hp, rfl⟩ | ⟨hp, rfl⟩ |
    ⟨hp, rfl⟩ | ⟨hp, rfl⟩ | ⟨hp, rfl⟩ := execPllConfig_cases h
  · exact .goto (by rw [hp]; rfl) (by rw [hp]; rfl) rfl fun _ => trivial
  · refine .goesOn _ .pllOffWait (.bit .cr (onBit s.cfg .pll) false rfl) (by rw [hp]; rfl) rfl
      (.inl rfl) fun hs => ?_
    exact (isOn_writeOn s hs.legal .pll .pll false).trans (if_pos rfl)
  · rw [waitCond_pllOffWait src m n p hp] at hwait
    rw [pllOffWait, waitUntil_of_true hwait]
    refine .goesOn s .pllSrc .nothing (by rw [hp]; rfl) rfl (.inl rfl) fun hs => ?_
    have hoff : s.isOn .pll = false := hs.pllProgress hp (by decide)
    have hunlocked : s.isReady .pll = false := by simpa using hwait
    exact ⟨hoff, hunlocked⟩
  · obtain ⟨hgt, -⟩ | ⟨hle, hset⟩ := pllSource_cases src s
    · exact absurd ⟨hp, hgt⟩ hsrc
    · rw [hset]
      refine .goesOn _ .pllChkN (.bit .pllcfgr pllSrcBit _ (.inr (.inr (.inr rfl))))
        (by rw [hp]; rfl) rfl (.inr ⟨rfl, by rw [hp]; rfl, rfl⟩) fun hs => ?_
      have hoff : PllIsOff s := hs.pllProgress hp (by decide)
      exact ⟨hoff.congr ⟨rfl, rfl, rfl⟩, hle, pllSrc_writeSrc s _⟩
  · obtain ⟨hin, hset⟩ | ⟨hout, -⟩ := pllCheckN_cases n s
    · rw [hset]
      refine .goto (by rw [hp]; rfl) (by rw [hp]; rfl) rfl fun hs => ?_
      obtain ⟨hoff, hsource⟩ : PllIsOff s ∧ SourceWritten src s := hs.pllProgress hp (by decide)
      exact ⟨hoff.congr ⟨rfl, rfl, rfl⟩, ⟨hsource.legal, hsource.written⟩, hin⟩
    · exact absurd ⟨hp, hout⟩ hn
  · obtain ⟨⟨hlow, hhigh⟩, hset⟩ | ⟨hout, -⟩ := pllCheckM_cases m s
    · rw [hset]
      refine .goto (by rw [hp]; rfl) (by rw [hp]; rfl) rfl fun hs => ?_
      obtain ⟨hoff, hsource, hnlow, hnhigh⟩ : PllIsOff s ∧ SourceWritten src s ∧ 50 ≤ n ∧ n ≤ 432 :=
        hs.pllProgress hp (by decide)
      exact ⟨hoff.congr ⟨rfl, rfl, rfl⟩, ⟨hsource.legal, hsource.written⟩,
        ⟨hnlow, hnhigh, hlow, hhigh⟩⟩
    · exact absurd ⟨hp, hout⟩ hm
  · refine .goesOn _ .pllP (.field .pllcfgr pllMLo (pllFactors n m) fun j _ hj => .inl ?_)
      (by rw [hp]; rfl) rfl (.inr ⟨rfl, by rw [hp]; rfl, rfl⟩) fun hs => ?_
    · simpa only [pllMLo, Nat.zero_add] using hj
    · obtain ⟨hoff, hsource, hlegal⟩ : PllIsOff s ∧ SourceWritten src s ∧ FactorsLegal m n :=
        hs.pllProgress hp (by decide)
      have hnmax := hlegal.nHigh
      have hmmax := hlegal.mHigh
      refine ⟨hoff.congr ⟨rfl, rfl, rfl⟩, ⟨hsource.legal, ?_⟩, hlegal, ?_, ?_⟩
      · exact (pllSrc_writeFactors s _).trans hsource.written
      · rw [pllWriteFactors, goto_pllM, pllM_writeFactors, BitVec.toNat_ofNat,
          Nat.mod_eq_of_lt (by omega)]
      · rw [pllWriteFactors, goto_pllN, pllN_writeFactors, BitVec.toNat_ofNat,
          Nat.mod_eq_of_lt (by omega)]
  · obtain ⟨hnone, -⟩ | ⟨code, hsome, hset⟩ := pllWriteCode_cases m p s
    · exact absurd ⟨hp, hnone⟩ hcode
    · rw [hset]
      refine .goesOn _ .pllOn (.field .pllcfgr pllPLo code fun j hlo hhi => .inr ?_)
        (by rw [hp]; rfl) rfl (.inr ⟨rfl, by rw [hp]; rfl, rfl⟩) fun hs => ?_
      · simp only [pllPLo] at hlo hhi
        omega
      · obtain ⟨hoff, hsource, hlegal, hfactors⟩ : PllIsOff s ∧ SourceWritten src s ∧
          FactorsLegal m n ∧ FactorsWritten m n s := hs.pllProgress hp (by decide)
        refine ⟨hoff.congr ⟨rfl, rfl, rfl⟩, ⟨hsource.legal, ?_⟩, hlegal, ⟨?_, ?_⟩, ?_⟩
        · exact (pllSrc_writeCode s code).trans hsource.written
        · rw [goto_pllM, pllM_writeCode, hfactors.mWritten]
        · rw [goto_pllN, pllN_writeCode, hfactors.nWritten]
        · rw [CodeWritten, goto_pllP, pllP_writeCode]
          exact hsome
  · refine .goesOn _ .pllOnWait (.bit .cr (onBit s.cfg .pll) true rfl) (by rw [hp]; rfl) rfl
      (.inl rfl) fun hs => ?_
    obtain ⟨-, hsource, hlegal, hfactors, hwritten⟩ : PllIsOff s ∧ SourceWritten src s ∧
      FactorsLegal m n ∧ FactorsWritten m n s ∧ CodeWritten m p s := hs.pllProgress hp (by decide)
    exact ⟨(isOn_writeOn s hs.legal .pll .pll true).trans (if_pos rfl),
      ⟨hsource.legal, hsource.written⟩, hlegal, ⟨hfactors.mWritten, hfactors.nWritten⟩, hwritten⟩
  · rw [waitCond_pllOnWait src m n p hp] at hwait
    rw [pllOnWait, waitUntil_of_true hwait]
    refine .ends s .nothing rfl fun hs => ?_
    obtain ⟨hon, hsource, hlegal, hfactors, hwritten⟩ : s.isOn .pll = true ∧ SourceWritten src s ∧
      FactorsLegal m n ∧ FactorsWritten m n s ∧ CodeWritten m p s := hs.pllProgress hp (by decide)
    have hlocked : s.isReady .pll = true := by simpa using hwait
    exact ⟨⟨hon, hlocked⟩, ⟨hsource.legal, hsource.written⟩, hlegal,
      ⟨hfactors.mWritten, hfactors.nWritten⟩, hwritten⟩

/-! ### The gate commands -/

theorem achieved_gateCommand {bus : Bus} {pos : Nat} {on : Bool} {t : State} :
    Achieved (gateCommand bus pos on) t ↔ gate t bus pos = on := by
  cases on <;> exact Iff.rfl

theorem ownsBit_gateCommand {bus : Bus} {pos : Nat} {on : Bool} {p : Params} :
    OwnsBit p (gateCommand bus pos on) (.enr bus) pos := by
  cases on <;> exact ⟨rfl, rfl⟩

theorem gateCommand_passes {bus : Bus} {pos : Nat} {on : Bool} {s t : State}
    (h : exec (gateCommand bus pos on) s = .next t)
    (hcheck : ¬ FailsCheck (gateCommand bus pos on) s) : Passes (gateCommand bus pos on) s t := by
  rw [failsCheck_gateCommand] at hcheck
  obtain ⟨hp, rfl⟩ | ⟨hp, rfl⟩ := exec_gateCommand_cases h
  · exact .goto (by cases on <;> rw [hp] <;> rfl) (by rw [hp]; rfl) rfl
      fun _ => by cases on <;> exact .inr rfl
  · obtain ⟨hgt, -⟩ | ⟨hle, hset⟩ := gateSet_cases bus pos on s
    · exact absurd ⟨hp, hgt⟩ hcheck
    · rw [hset]
      refine .ends _ (.bit (.enr bus) pos on ownsBit_gateCommand) rfl fun _ =>
        achieved_gateCommand.2 ?_
      rw [gate_congr (finish_enr _ _), gate_writeBit s bus pos on hle, if_pos ⟨rfl, rfl⟩]

/-! ### Every command -/

theorem exec_passes {i : Instr} {s t : State} (h : exec i s = .next t)
    (hcheck : ¬ FailsCheck i s) (hwait : waitCond i s ≠ some false) : Passes i s t := by
  cases i with
  | clkEnable src => exact clkCommand_passes (on := true) h hcheck hwait
  | clkDisable src => exact clkCommand_passes (on := false) h hcheck hwait
  | sysclkSelect val => exact sysclkSelect_passes h hcheck hwait
  | hseBypass val => exact hseBypass_passes h hcheck
  | pllConfig src m n p => exact pllConfig_passes h hcheck hwait
  | periphEnable bus pos => exact gateCommand_passes (on := true) h hcheck
  | periphDisable bus pos => exact gateCommand_passes (on := false) h hcheck

/-- What a controller step of a command does (R104 to R108). -/
theorem exec_effect {i : Instr} {s t : State} (h : exec i s = .next t) : Effect i s t := by
  by_cases hwait : waitCond i s = some false
  · exact .polls hwait (Host.Outcome.next.inj (h.symm.trans (exec_failedPoll i s hwait)))
  · by_cases hcheck : FailsCheck i s
    · exact .rejects hcheck (Host.Outcome.next.inj (h.symm.trans (exec_of_failsCheck hcheck)))
    · exact .passes (exec_passes h hcheck hwait)

end Sys2Proof.Machine
end

section
/-! PROOFS. The invariant (10_state.md R39 to R44; 40_command_cycle.md R105, R108). A controller step
that passes its phase leaves what `Progress` says of the next one, and every other agent changes
nothing that the invariant speaks of, but for the issue and the reset, whose states it describes. -/

namespace Sys2Proof.Machine

/-! ### The frame of a controller step -/

/-- A phase's write leaves every field but the registers as it was (R31). -/
theorem Written.frame {i : Instr} {s u : State} (h : Written i s u) :
    u = { s with cr := u.cr, cfgr := u.cfgr, pllcfgr := u.pllcfgr, enr := u.enr } := by
  cases h with
  | nothing => rfl
  | field r lo v _ => cases r <;> rfl

/-- `t` is `u` but for the fields of the command cycle: the phase, the latch, the flags and
`wait_count`. -/
def SameButCycle (u t : State) : Prop :=
  t = { u with
    phase := t.phase, cmd := t.cmd, busy := t.busy, lastStatus := t.lastStatus,
    waitCount := t.waitCount }

theorem failedPoll_sameButCycle (s : State) : SameButCycle s s.failedPoll := by
  obtain ⟨-, h⟩ | ⟨_, -, -, h⟩ | ⟨_, -, -, h⟩ := failedPoll_cases s <;> rw [h] <;> rfl

/-- A controller step changes the command cycle and, by one write of its command, the registers
(R31, R34, R104). -/
theorem exec_written {i : Instr} {s t : State} (h : exec i s = .next t) :
    ∃ u, Written i s u ∧ SameButCycle u t := by
  obtain ⟨-, rfl⟩ | ⟨-, rfl⟩ | ⟨u, ph, hw, -, hframe, -, -⟩ | ⟨u, hw, rfl, -⟩ := exec_effect h
  · exact ⟨s, .nothing, failedPoll_sameButCycle s⟩
  · exact ⟨s, .nothing, rfl⟩
  · exact ⟨u, hw, by rw [hframe]; rfl⟩
  · exact ⟨u, hw, rfl⟩

/-- The flags and the latch of the running command are the same in both states. -/
structure SameCommand (s t : State) : Prop where
  busy : t.busy = s.busy
  cmd : t.cmd = s.cmd
  lastStatus : t.lastStatus = s.lastStatus

theorem Written.sameCommand {i : Instr} {s u : State} (h : Written i s u) : SameCommand s u := by
  rw [h.frame]
  exact ⟨rfl, rfl, rfl⟩

theorem Written.cfg {i : Instr} {s u : State} (h : Written i s u) : u.cfg = s.cfg := by
  rw [h.frame]

/-- A step that goes on to the next phase keeps the flags and the latch (R42, R43). -/
theorem sameCommand_of_goesOn {i : Instr} {s u t : State} {ph : Phase} {k : Nat}
    (hw : Written i s u) (hframe : t = { u with phase := ph, waitCount := k }) :
    SameCommand s t := by
  obtain ⟨hbusy, hcmd, hstatus⟩ := hw.sameCommand
  exact ⟨(congrArg State.busy hframe).trans hbusy, (congrArg State.cmd hframe).trans hcmd,
    (congrArg State.lastStatus hframe).trans hstatus⟩

/-! ### The controller keeps the invariant -/

theorem StateInv.prepared {s : State} {i : Instr} (h : StateInv s) (hr : Runs s i)
    (hp : s.phase ≠ .idle) : Prepared i s :=
  ⟨h.legal, progress_of_runs h hr hp⟩

theorem StateInv.busy_of_phase {s : State} (h : StateInv s) (hp : s.phase ≠ .idle) :
    s.busy = true :=
  h.busyIff.2 hp

/-- No command goes on to IDLE (R104, R107). -/
theorem nextPhase_ne_idle {i : Instr} {ph ph' : Phase} (h : nextPhase i ph = some ph') :
    ph' ≠ .idle := by
  rintro rfl
  cases ph with
  | decode => cases i <;> simp [nextPhase, firstPhase] at h
  | _ => simp [nextPhase] at h

/-- Only a wait phase has a condition (R105). -/
theorem isWaitPhase_of_waitCond {i : Instr} {s : State} {b : Bool} (h : waitCond i s = some b) :
    isWaitPhase s.phase = true := by
  unfold waitCond at h
  split at h <;> simp_all [isWaitPhase]

/-- The state after an end satisfies the invariant (R40, R107). -/
theorem endedWith_inv {u : State} (hl : u.cfg.Legal) (x : Status) : StateInv (endedWith u x) :=
  stateInv_of_idle _ hl rfl rfl rfl rfl

/-- A counted poll that is not the k-th leaves the command waiting with its count in range (R44,
R105). -/
theorem counted_inv {i : Instr} {s : State} {k : Nat} (hinv : StateInv s) (hr : Runs s i)
    (hp : s.phase ≠ .idle) (hwait : waitCond i s = some false) (hk : s.cfg.waitBound = some k)
    (hnot : s.waitCount + 1 ≠ k) : StateInv { s with waitCount := s.waitCount + 1 } := by
  have hphase := isWaitPhase_of_waitCond hwait
  have hlt := hinv.waitCount.bounded k hk
  refine stateInv_of_progress _ i hinv.legal (hinv.busy_of_phase hp) hr hp ⟨?_, ?_, ?_⟩ fun hd =>
    progress_mono (s := s) rfl rfl (fun _ => rfl) PllIsOff.unlocked rfl rfl
      (progress_of_runs hinv hr hp hd)
  · intro k' hk'
    cases hk.symm.trans hk'
    exact Nat.lt_of_le_of_ne hlt hnot
  · intro hnone
    simp [hk] at hnone
  · intro hout
    simp [hphase] at hout

theorem failedPoll_inv {i : Instr} {s : State} (hinv : StateInv s) (hr : Runs s i)
    (hp : s.phase ≠ .idle) (hwait : waitCond i s = some false) : StateInv s.failedPoll := by
  obtain ⟨-, h⟩ | ⟨_, -, -, h⟩ | ⟨k, hk, hnot, h⟩ := failedPoll_cases s <;> rw [h]
  · exact hinv
  · exact endedWith_inv hinv.legal _
  · exact counted_inv hinv hr hp hwait hk hnot

/-- Where the count is kept, it was 0 outside a wait (R44). -/
theorem passes_inv {i : Instr} {s t : State} (hinv : StateInv s) (hr : Runs s i)
    (hp : s.phase ≠ .idle) (h : Passes i s t) : StateInv t := by
  obtain ⟨u, ph, hw, hnext, hframe, hcount, hprogress⟩ | ⟨u, hw, rfl, -⟩ := h
  · have hcmd := sameCommand_of_goesOn hw hframe
    have hcfg : t.cfg = s.cfg := (congrArg State.cfg hframe).trans hw.cfg
    have hphase : t.phase = ph := congrArg State.phase hframe
    have hlegal : t.cfg.Legal := hcfg ▸ hinv.legal
    have hzero : t.waitCount = 0 := by
      obtain hzero | ⟨hsame, hout, -⟩ := hcount
      · exact hzero
      · rw [hsame, hinv.waitCount.outside hout]
    exact stateInv_of_progress t i hlegal (hcmd.busy.trans (hinv.busy_of_phase hp))
      (runs_of_cmd hr hcmd.cmd) (hphase ▸ nextPhase_ne_idle hnext)
      (waitCountInRange_zero t hlegal hzero) fun _ => hprogress (hinv.prepared hr hp)
  · exact endedWith_inv (hw.cfg ▸ hinv.legal) .ok

theorem exec_inv {i : Instr} {s t : State} (hinv : StateInv s) (hr : Runs s i)
    (hp : s.phase ≠ .idle) (h : exec i s = .next t) : StateInv t := by
  obtain ⟨hwait, rfl⟩ | ⟨-, rfl⟩ | hpasses := exec_effect h
  · exact failedPoll_inv hinv hr hp hwait
  · exact endedWith_inv hinv.legal _
  · exact passes_inv hinv hr hp hpasses

theorem controllerStep_inv {s t : State} (hinv : StateInv s) (h : controllerStep s = .next t) :
    StateInv t := by
  obtain ⟨-, rfl⟩ | ⟨hp, i, hr, hexec⟩ | ⟨-, -, rfl⟩ := controllerStep_cases h
  · exact hinv
  · exact exec_inv hinv hr hp hexec
  · exact endedWith_inv hinv.legal _

/-! ### The other agents keep the invariant -/

/-- The invariant does not depend on CR's ready bits but for PLLRDY while the PLL is off, nor on
SWS, the ENR registers, the last status, the faults, the moves to come and the host's data. -/
theorem StateInv.of_same {s t : State} (hinv : StateInv s) (hcfg : t.cfg = s.cfg)
    (hphase : t.phase = s.phase) (hbusy : t.busy = s.busy) (hcmd : t.cmd = s.cmd)
    (hcount : t.waitCount = s.waitCount) (hon : ∀ c, t.isOn c = s.isOn c)
    (hrdy : PllIsOff s → t.isReady .pll = false) (hsw : t.sw = s.sw)
    (hpll : t.pllcfgr = s.pllcfgr) : StateInv t where
  legal := hcfg ▸ hinv.legal
  busyIff := by rw [hbusy, hphase]; exact hinv.busyIff
  cmdIff := by rw [hcmd, hphase]; exact hinv.cmdIff
  waitCount := by
    obtain ⟨hbounded, hunbounded, houtside⟩ := hinv.waitCount
    exact ⟨by rw [hcfg, hcount]; exact hbounded, by rw [hcfg, hcount]; exact hunbounded,
      by rw [hphase, hcount]; exact houtside⟩
  progress := fun hidle hdecode => by
    rw [hphase] at hidle hdecode
    obtain ⟨i, hr, hprogress⟩ := hinv.progress hidle hdecode
    exact ⟨i, runs_of_cmd hr hcmd, progress_mono hphase hcfg hon hrdy hsw hpll hprogress⟩

/-- Taking the next move off the list keeps the invariant. -/
theorem schedule_inv {s : State} (hinv : StateInv s) (l : List Move) :
    StateInv { s with schedule := l } :=
  hinv.of_same rfl rfl rfl rfl rfl (fun _ => rfl) PllIsOff.unlocked rfl rfl

/-- A ready-bit move copies the enable bit, so a PLL that is off stays unlocked (R190). -/
theorem envReady_inv {s : State} (hinv : StateInv s) (c : ClockSource) : StateInv (s.envReady c) := by
  obtain ⟨-, h⟩ | ⟨-, h⟩ := envReady_cases s c <;> rw [h]
  · exact hinv
  · refine hinv.of_same rfl rfl rfl rfl rfl (fun d => isOn_writeRdy s hinv.legal c d _)
      (fun hoff => ?_) rfl rfl
    rw [isReady_writeRdy s hinv.legal]
    split
    · rename_i hc
      rw [← hc, hoff.off]
    · exact hoff.unlocked

theorem envSwitch_inv {s : State} (hinv : StateInv s) : StateInv s.envSwitch := by
  obtain ⟨-, h⟩ | ⟨-, h⟩ := envSwitch_cases s <;> rw [h]
  · exact hinv
  · exact hinv.of_same rfl rfl rfl rfl rfl (fun _ => rfl) PllIsOff.unlocked (sw_writeSws s _) rfl

/-- The host issues only while no command runs, when `wait_count` is 0 (R44, R100). -/
theorem issueWord_inv {s : State} (hinv : StateInv s) (hfree : s.busy = false) (w : Word) :
    StateInv (s.issueWord w) where
  legal := hinv.legal
  busyIff := by simp
  cmdIff := by simp
  waitCount := by
    have hidle : s.phase = .idle := by
      by_contra hp
      simp [hinv.busy_of_phase hp] at hfree
    exact waitCountInRange_zero _ hinv.legal (hinv.waitCount.outside (by rw [hidle]; rfl))
  progress := fun _ hdecode => absurd rfl hdecode

theorem hostRead_inv {s : State} (hinv : StateInv s) (a : Word) (n : Nat) :
    StateInv (s.hostRead a n) := by
  obtain ⟨_, -, h⟩ | ⟨-, h⟩ := hostRead_cases s a n <;> rw [h] <;>
    exact hinv.of_same rfl rfl rfl rfl rfl (fun _ => rfl) PllIsOff.unlocked rfl rfl

theorem assertReset_inv {s : State} (hl : s.cfg.Legal) : StateInv s.assertReset :=
  stateInv_of_idle _ hl rfl rfl rfl rfl

/-! ### Every step -/

theorem step_inv {s t : State} (hinv : StateInv s) (h : step s = .next t) : StateInv t := by
  obtain ⟨hctl, -⟩ | ⟨rest, m, -, hmove⟩ := step_cases h
  · exact controllerStep_inv hinv hctl
  · have hrest := schedule_inv hinv rest
    obtain ⟨-, hctl⟩ | ⟨c, -, rfl⟩ | ⟨-, rfl⟩ | ⟨w, -, hfree, rfl⟩ | ⟨a, n, -, rfl⟩ | ⟨-, rfl⟩ |
      ⟨-, rfl⟩ := hmove
    · exact controllerStep_inv hrest hctl
    · exact envReady_inv hrest c
    · exact envSwitch_inv hrest
    · exact issueWord_inv hrest hfree w
    · exact hostRead_inv hrest a n
    · exact hrest.of_same rfl rfl rfl rfl rfl (fun _ => rfl) PllIsOff.unlocked rfl rfl
    · exact assertReset_inv hinv.legal

/-- Settles O54: the controller's step passes its phase with the next phase's progress, ends the
command or counts a poll; the environment and the host leave what the invariant speaks of; an issue
and a reset make a state that it describes. -/
theorem invariantKeptByStep : Obligations.InvariantKeptByStep :=
  fun _ _ hinv hstep => step_inv hinv hstep

/-- R8's defaults and suggestions are legal parameters. -/
theorem params_suggested_legal : Params.suggested.Legal where
  waitBound := by decide
  plli2s := ⟨by decide, by decide, by decide⟩
  pllsai := ⟨by decide, by decide, by decide⟩
  disjoint := by decide
  base := by decide
  offset0 := ⟨by decide, by decide⟩
  offset1 := ⟨by decide, by decide⟩
  offset2 := ⟨by decide, by decide⟩
  offset3 := ⟨by decide, by decide⟩
  distinct := by decide

/-- Settles O53: after reset no command runs, and the parameters are the suggestions of R8. -/
theorem invariantHoldsAtReset : Obligations.InvariantHoldsAtReset :=
  stateInv_of_idle State.reset params_suggested_legal rfl rfl rfl rfl

/-! ### Runs -/

/-- What a first step did, in a run of one step or more. -/
theorem stepN_succ_cases {n : Nat} {s u : State} (h : stepN (n + 1) s = .next u) :
    ∃ t, step s = .next t ∧ stepN n t = .next u := by
  unfold stepN at h
  split at h
  · exact ⟨_, ‹_›, h⟩
  · simp at h
  · simp at h

/-- What every step keeps, every run keeps. -/
theorem stepN_keeps {P : State → Prop} (hkeep : ∀ s t, P s → step s = .next t → P t) {n : Nat}
    {s t : State} (hs : P s) (h : stepN n s = .next t) : P t := by
  induction n generalizing s with
  | zero => cases h; exact hs
  | succ n ih =>
    obtain ⟨u, hstep, hrun⟩ := stepN_succ_cases h
    exact ih (hkeep s u hs hstep) hrun

/-- Settles O56: a run from a reset keeps the invariant, which holds right after the reset. -/
theorem busyExactlyWhenNotIdle : Obligations.BusyExactlyWhenNotIdle := by
  intro n s t hlegal hrun
  exact (stepN_keeps (fun _ _ => step_inv) (assertReset_inv hlegal) hrun).busyIff

/-! ### Progress: no step stops -/

/-- In CLK_WAIT both clock source commands poll the ready bit (R120, R121). -/
theorem exec_clkCommand_clkWait {src : Nat} {on : Bool} {s : State} {c : ClockSource}
    (hp : s.phase = .clkWait) (hc : sourceOfId src = some c) :
    exec (clkCommand src on) s =
      .next (s.waitUntil (s.isReady c == on) (fun u => u.finish .ok)) := by
  cases on with
  | true => simp only [clkCommand, if_true, exec, execClkEnable, hp, clkWait, hc]
  | false => simp [clkCommand, exec, execClkDisable, hp, clkWait, hc]

theorem exec_clkCommand_next {src : Nat} {on : Bool} {s : State}
    (h : Progress (clkCommand src on) s) : ∃ t, exec (clkCommand src on) s = .next t := by
  obtain hp | hp | ⟨hp, c, hc, -⟩ := progress_clkCommand.1 h
  · exact ⟨_, exec_decode _ hp⟩
  · exact ⟨_, exec_clkCommand_clkSet src on hp⟩
  · exact ⟨_, exec_clkCommand_clkWait hp hc⟩

theorem exec_sysclkSelect_next {val : Nat} {s : State} (h : Progress (.sysclkSelect val) s) :
    ∃ t, exec (.sysclkSelect val) s = .next t := by
  obtain hp | hp | ⟨hp, -⟩ := h
  · exact ⟨_, exec_decode _ hp⟩
  · exact ⟨_, exec_sysclkSelect_sysSet val hp⟩
  · exact ⟨sysWait val s, by simp only [exec, execSysclkSelect, hp]⟩

theorem exec_hseBypass_next {val : Nat} {s : State} (h : Progress (.hseBypass val) s) :
    ∃ t, exec (.hseBypass val) s = .next t := by
  obtain hp | hp := h
  · exact ⟨_, exec_decode _ hp⟩
  · exact ⟨_, exec_hseBypass_bypSet val hp⟩

theorem exec_pllConfig_next {src m n p : Nat} {s : State} (h : Progress (.pllConfig src m n p) s) :
    ∃ t, exec (.pllConfig src m n p) s = .next t := by
  unfold Progress at h
  cases hp : s.phase <;> simp only [hp, PllProgress] at h <;>
    simp only [exec, execPllConfig, hp] <;> exact ⟨_, rfl⟩

theorem exec_gateCommand_next {bus : Bus} {pos : Nat} {on : Bool} {s : State}
    (h : Progress (gateCommand bus pos on) s) : ∃ t, exec (gateCommand bus pos on) s = .next t := by
  obtain hp | hp : s.phase = .decode ∨ s.phase = .gateSet := by cases on <;> exact h
  · exact ⟨_, exec_decode _ hp⟩
  · exact ⟨_, exec_gateCommand_gateSet bus pos on hp⟩

/-- A command has a next state in each of its phases (R104). -/
theorem exec_next_of_progress {i : Instr} {s : State} (h : Progress i s) :
    ∃ t, exec i s = .next t := by
  cases i with
  | clkEnable src => exact exec_clkCommand_next (on := true) h
  | clkDisable src => exact exec_clkCommand_next (on := false) h
  | sysclkSelect val => exact exec_sysclkSelect_next h
  | hseBypass val => exact exec_hseBypass_next h
  | pllConfig src m n p => exact exec_pllConfig_next h
  | periphEnable bus pos => exact exec_gateCommand_next (on := true) h
  | periphDisable bus pos => exact exec_gateCommand_next (on := false) h

theorem exec_next {i : Instr} {s : State} (h : Prepared i s) : ∃ t, exec i s = .next t := by
  by_cases hp : s.phase = .decode
  · exact ⟨_, exec_decode i hp⟩
  · exact exec_next_of_progress (h.progress hp)

/-- In DECODE the latch holds a word: it decodes, or the command ends ILLEGAL_COMMAND (R102). -/
theorem controllerStep_next_of_decode {s : State} (hinv : StateInv s) (hp : s.phase = .decode) :
    ∃ t, controllerStep s = .next t := by
  have hidle : s.phase ≠ .idle := by simp [hp]
  obtain ⟨w, hw⟩ := Option.isSome_iff_exists.1 (hinv.cmdIff.2 hidle)
  cases hd : decode w with
  | ok i => exact ⟨_, (controllerStep_of_decode_ok hidle hw hd).trans (exec_decode i hp)⟩
  | error e => exact ⟨s.raise .illegalCommand, by simp [controllerStep, hp, hw, hd]⟩

theorem controllerStep_next {s : State} (hinv : StateInv s) : ∃ t, controllerStep s = .next t := by
  by_cases hidle : s.phase = .idle
  · exact ⟨s, by simp [controllerStep, hidle]⟩
  · by_cases hp : s.phase = .decode
    · exact controllerStep_next_of_decode hinv hp
    · obtain ⟨i, ⟨w, hw, hd⟩, hprogress⟩ := hinv.progress hidle hp
      obtain ⟨t, ht⟩ := exec_next_of_progress hprogress
      exact ⟨t, (controllerStep_of_decode_ok hidle hw hd).trans ht⟩

/-- Settles O55: every agent but the controller always has a next state, and the controller has one
in each phase that the invariant allows. -/
theorem stepNeverStops : Obligations.StepNeverStops := by
  intro s hinv
  unfold step agentStep
  cases hsched : s.schedule with
  | nil => exact controllerStep_next hinv
  | cons m rest =>
    cases m with
    | controller => exact controllerStep_next (schedule_inv hinv rest)
    | issue w =>
      cases hbusy : s.busy with
      | true => simpa only [hbusy, if_true] using controllerStep_next hinv
      | false => exact ⟨_, rfl⟩
    | envReady c => exact ⟨_, rfl⟩
    | envSwitch => exact ⟨_, rfl⟩
    | readRegister a n => exact ⟨_, rfl⟩
    | readStatus => exact ⟨_, rfl⟩
    | reset => exact ⟨_, rfl⟩

end Sys2Proof.Machine
end

section
/-! PROOFS. Which steps write which bits (10_state.md R30 to R34; 44_pll_config.md R161). A
controller step writes only bits that its command owns, and the environment only ready bits and
SWS. No agent but the platform's reset writes anything else, and none writes the parameters or
drops a recorded fault. -/

namespace Sys2Proof.Machine

/-! ### A controller step -/

/-- A field write leaves every bit outside the field, in every register (R31). -/
theorem getLsbD_reg_writeField_apart {n : Nat} (s : State) (r q : RegId) (lo : Nat) (v : BitVec n)
    {j : Nat} (h : q = r → j < lo ∨ lo + n ≤ j) :
    ((s.writeField r lo v).reg q).getLsbD j = (s.reg q).getLsbD j := by
  rw [State.writeField, reg_setReg]
  split
  · rename_i hq
    rw [getLsbD_setField, if_neg (by have := h hq; omega), hq]
  · rfl

/-- A bit that a phase's write changes is the command's own (R34). -/
theorem Written.ownsBit {i : Instr} {s u : State} (h : Written i s u) {r : RegId} {j : Nat}
    (hne : (u.reg r).getLsbD j ≠ (s.reg r).getLsbD j) : OwnsBit s.cfg i r j := by
  cases h with
  | nothing => exact absurd rfl hne
  | field q lo v owned =>
    by_contra hnot
    refine hne (getLsbD_reg_writeField_apart s q r lo v fun hq => ?_)
    by_contra hin
    exact hnot (hq ▸ owned j (by omega) (by omega))

theorem SameButCycle.reg {u t : State} (h : SameButCycle u t) (r : RegId) : t.reg r = u.reg r := by
  rw [h]
  cases r <;> rfl

/-- A bit that a controller step changes is the command's own (R34). -/
theorem exec_ownsBit {i : Instr} {s t : State} (h : exec i s = .next t) {r : RegId} {j : Nat}
    (hne : (t.reg r).getLsbD j ≠ (s.reg r).getLsbD j) : OwnsBit s.cfg i r j := by
  obtain ⟨u, hw, hsame⟩ := exec_written h
  rw [hsame.reg] at hne
  exact hw.ownsBit hne

/-- A register of which the command owns no bit stays (R34). -/
theorem exec_reg_of_not_owned {i : Instr} {s t : State} (h : exec i s = .next t) (r : RegId)
    (hnot : ∀ j, ¬ OwnsBit s.cfg i r j) : t.reg r = s.reg r :=
  word_ext _ _ fun j _ => by_contra fun hne => hnot j (exec_ownsBit h hne)

/-- Settles O43: the bits that a step changes are the command's own, and where it owns none the
register stays. -/
theorem commandsWriteOnlyTheirFields : Obligations.CommandsWriteOnlyTheirFields := by
  intro i s t _ h
  have kept (r : RegId) (hnot : ∀ j, ¬ OwnsBit s.cfg i r j) : t.reg r = s.reg r :=
    exec_reg_of_not_owned h r hnot
  have owned (r : RegId) (j : Nat) (hne : (t.reg r).getLsbD j ≠ (s.reg r).getLsbD j) :
    OwnsBit s.cfg i r j := exec_ownsBit h hne
  cases i with
  | clkEnable src =>
    exact ⟨kept .cfgr fun _ => id, kept .pllcfgr fun _ => id, exec_clkEnable_enr h, owned .cr⟩
  | clkDisable src =>
    exact ⟨kept .cfgr fun _ => id, kept .pllcfgr fun _ => id, exec_clkDisable_enr h, owned .cr⟩
  | sysclkSelect val =>
    exact ⟨kept .cr fun _ => id, kept .pllcfgr fun _ => id, exec_sysclkSelect_enr h, owned .cfgr⟩
  | hseBypass val =>
    exact ⟨kept .cfgr fun _ => id, kept .pllcfgr fun _ => id, exec_hseBypass_enr h, owned .cr⟩
  | pllConfig src m n p =>
    exact ⟨kept .cfgr fun _ => id, exec_pllConfig_enr h, owned .cr, owned .pllcfgr⟩
  | periphEnable bus pos =>
    exact ⟨kept .cr fun _ => id, kept .cfgr fun _ => id, kept .pllcfgr fun _ => id,
      fun b => owned (.enr b)⟩
  | periphDisable bus pos =>
    exact ⟨kept .cr fun _ => id, kept .cfgr fun _ => id, kept .pllcfgr fun _ => id,
      fun b => owned (.enr b)⟩

/-- Settles O45: the writes of CR and CFGR that a controller step can make reach no ready bit and
not SWS. -/
theorem controllerNeverWritesStatusBits : Obligations.ControllerNeverWritesStatusBits := by
  intro s t hlegal h
  have hwrite := controllerStep_controllerWrite h
  exact ⟨isReady_of_controllerWrite hlegal hwrite, sws_of_controllerWrite hwrite⟩

/-! ### Every step -/

/-- Who may change a bit in a step that is no reset: the latched command, or the environment
(R33, R34). -/
inductive BitOwner (s : State) (r : RegId) (j : Nat) : Prop
  | command (i : Instr) (runs : Runs s i) (owned : OwnsBit s.cfg i r j)
  | readyBit (c : ClockSource) (reg : r = .cr) (bit : j = rdyBit s.cfg c)
  | confirmed (reg : r = .cfgr) (bit : j = 2 ∨ j = 3)

theorem bitOwner_of_controllerStep {s t : State} (h : controllerStep s = .next t) {r : RegId}
    {j : Nat} (hne : (t.reg r).getLsbD j ≠ (s.reg r).getLsbD j) : BitOwner s r j := by
  obtain ⟨-, rfl⟩ | ⟨-, i, hr, hexec⟩ | ⟨-, -, rfl⟩ := controllerStep_cases h
  · exact absurd rfl hne
  · exact .command i hr (exec_ownsBit hexec hne)
  · exact absurd (by cases r <;> rfl) hne

theorem bitOwner_of_envReady {s : State} {c : ClockSource} {r : RegId} {j : Nat}
    (hne : ((s.envReady c).reg r).getLsbD j ≠ (s.reg r).getLsbD j) : BitOwner s r j := by
  obtain ⟨-, h⟩ | ⟨-, h⟩ := envReady_cases s c <;> rw [h] at hne
  · exact absurd rfl hne
  · by_contra hnot
    refine hne (getLsbD_reg_writeField_apart s .cr r _ _ fun hr => ?_)
    have hbit : j ≠ rdyBit s.cfg c := fun hj => hnot (.readyBit c hr hj)
    omega

theorem bitOwner_of_envSwitch {s : State} {r : RegId} {j : Nat}
    (hne : ((s.envSwitch).reg r).getLsbD j ≠ (s.reg r).getLsbD j) : BitOwner s r j := by
  obtain ⟨-, h⟩ | ⟨-, h⟩ := envSwitch_cases s <;> rw [h] at hne
  · exact absurd rfl hne
  · by_contra hnot
    refine hne (getLsbD_reg_writeField_apart s .cfgr r _ _ fun hr => ?_)
    have hbit : ¬ (j = 2 ∨ j = 3) := fun hj => hnot (.confirmed hr hj)
    simp only [swsLo]
    omega

/-- Which moves are to come does not matter for who owns a bit. -/
theorem BitOwner.of_schedule {s : State} {l : List Move} {r : RegId} {j : Nat}
    (h : BitOwner { s with schedule := l } r j) : BitOwner s r j := by
  obtain ⟨i, hr, howned⟩ | ⟨c, hr, hj⟩ | ⟨hr, hj⟩ := h
  · exact .command i hr howned
  · exact .readyBit c hr hj
  · exact .confirmed hr hj

/-- A bit that a step other than a reset changes is the latched command's or the environment's (R33,
R34). -/
theorem bitOwner_of_step {s t : State} (h : step s = .next t) (hreset : resetIsNext s = false)
    {r : RegId} {j : Nat} (hne : (t.reg r).getLsbD j ≠ (s.reg r).getLsbD j) : BitOwner s r j := by
  obtain ⟨hctl, -⟩ | ⟨rest, m, hsched, hmove⟩ := step_cases h
  · exact bitOwner_of_controllerStep hctl hne
  · have same : ({ s with schedule := rest } : State).reg r = s.reg r := by cases r <;> rfl
    rw [← same] at hne
    obtain ⟨-, hctl⟩ | ⟨c, -, rfl⟩ | ⟨-, rfl⟩ | ⟨w, -, -, rfl⟩ | ⟨a, n, -, rfl⟩ | ⟨-, rfl⟩ |
      ⟨rfl, -⟩ := hmove
    · exact (bitOwner_of_controllerStep hctl hne).of_schedule
    · exact (bitOwner_of_envReady hne).of_schedule
    · exact (bitOwner_of_envSwitch hne).of_schedule
    · exact absurd (by cases r <;> rfl) hne
    · obtain ⟨_, -, hread⟩ | ⟨-, hread⟩ := hostRead_cases { s with schedule := rest } a n <;>
        exact absurd (by rw [hread]; cases r <;> rfl) hne
    · exact absurd (by cases r <;> rfl) hne
    · simp [resetIsNext, hsched] at hreset

theorem mem_crOwnedBits {p : Params} {j : Nat} :
    j ∈ crOwnedBits p ↔ j = 18 ∨ (∃ c, j = onBit p c) ∨ ∃ c, j = rdyBit p c := by
  have hall (c : ClockSource) : c ∈ allSources := by cases c <;> simp [allSources]
  simp [crOwnedBits, hseBypBit, hall, eq_comm]

/-- The owner of a bit of CR owns a named field (R25, R30). -/
theorem BitOwner.mem_cr {s : State} {j : Nat} (h : BitOwner s .cr j) : j ∈ crOwnedBits s.cfg := by
  rw [mem_crOwnedBits]
  obtain ⟨i, -, howned⟩ | ⟨c, -, hj⟩ | ⟨hr, -⟩ := h
  · cases i with
    | clkEnable src => obtain ⟨c, -, hj⟩ := howned; exact .inr (.inl ⟨c, hj⟩)
    | clkDisable src => obtain ⟨c, -, hj⟩ := howned; exact .inr (.inl ⟨c, hj⟩)
    | hseBypass val => exact .inl howned
    | pllConfig src m n p => exact .inr (.inl ⟨.pll, howned⟩)
    | _ => exact howned.elim
  · exact .inr (.inr ⟨c, hj⟩)
  · cases hr

/-- The owner of a bit of CFGR owns SW or SWS (R27, R30). -/
theorem BitOwner.mem_cfgr {s : State} {j : Nat} (h : BitOwner s .cfgr j) : j ∈ cfgrOwnedBits := by
  suffices j < 4 by simp only [cfgrOwnedBits, List.mem_cons, List.not_mem_nil, or_false]; omega
  obtain ⟨i, -, howned⟩ | ⟨_, hr, -⟩ | ⟨-, hj⟩ := h
  · cases i with
    | sysclkSelect val => exact Nat.lt_of_lt_of_le howned (by decide)
    | _ => exact howned.elim
  · cases hr
  · omega

/-- A bit of PLLCFGR has PLL_CONFIG as its only owner (R28, R34). -/
theorem BitOwner.pllConfig {s : State} {j : Nat} (h : BitOwner s .pllcfgr j) :
    (∃ src m n p, Runs s (.pllConfig src m n p)) ∧ j ∈ pllcfgrOwnedBits := by
  obtain ⟨i, hr, howned⟩ | ⟨_, hr, -⟩ | ⟨hr, -⟩ := h
  · cases i with
    | pllConfig src m n p =>
      refine ⟨⟨src, m, n, p, hr⟩, ?_⟩
      simp only [OwnsBit] at howned
      simp only [pllcfgrOwnedBits, List.mem_append, List.mem_range, List.mem_cons, List.not_mem_nil,
        or_false]
      exact howned
    | _ => exact howned.elim
  · cases hr
  · cases hr

/-- Settles O44: the owner of a changed bit owns a named field. -/
theorem unownedBitsNeverChange : Obligations.UnownedBitsNeverChange := by
  intro s t _ hreset h
  refine ⟨fun j hj => ?_, fun j hj => ?_, fun j hj => ?_⟩
  · exact by_contra fun hne => hj (bitOwner_of_step (r := .cr) h hreset hne).mem_cr
  · exact by_contra fun hne => hj (bitOwner_of_step (r := .cfgr) h hreset hne).mem_cfgr
  · exact by_contra fun hne => hj (bitOwner_of_step (r := .pllcfgr) h hreset hne).pllConfig.2

/-! ### PLLCFGR -/

theorem waitUntil_pllcfgr (s : State) (cond : Bool) (next : State → State)
    (hnext : ∀ u, (next u).pllcfgr = u.pllcfgr) : (s.waitUntil cond next).pllcfgr = s.pllcfgr := by
  obtain ⟨-, h⟩ | ⟨-, h⟩ := waitUntil_cases s cond next <;> rw [h]
  · exact hnext _
  · exact (failedPoll_sameButCycle s).reg .pllcfgr

/-- PLL_CONFIG writes PLLCFGR in its steps 2, 5 and 6 only, which come while the PLL is off (R150,
R161). -/
theorem pllIsOff_of_pllcfgr_changed {src m n p : Nat} {s t : State}
    (hs : Prepared (.pllConfig src m n p) s) (h : exec (.pllConfig src m n p) s = .next t)
    (hne : t.pllcfgr ≠ s.pllcfgr) : PllIsOff s ∧ PllIsOff t := by
  obtain ⟨-, rfl⟩ | ⟨-, rfl⟩ | ⟨-, rfl⟩ | ⟨hp, rfl⟩ | ⟨-, rfl⟩ | ⟨-, rfl⟩ | ⟨hp, rfl⟩ |
    ⟨hp, rfl⟩ | ⟨-, rfl⟩ | ⟨-, rfl⟩ := execPllConfig_cases h
  · exact absurd rfl hne
  · exact absurd rfl hne
  · exact (hne (waitUntil_pllcfgr s _ _ fun _ => rfl)).elim
  · have hoff : PllIsOff s := hs.pllProgress hp (by decide)
    exact ⟨hoff, hoff.congr (pllSource_sameClockRegs src s)⟩
  · exact absurd (by rw [pllCheckN_eq]; split <;> rfl) hne
  · exact absurd (by rw [pllCheckM_eq]; split <;> rfl) hne
  · obtain ⟨hoff, -⟩ : PllIsOff s ∧ _ := hs.pllProgress hp (by decide)
    exact ⟨hoff, hoff.congr ⟨rfl, rfl, rfl⟩⟩
  · obtain ⟨hoff, -⟩ : PllIsOff s ∧ _ := hs.pllProgress hp (by decide)
    exact ⟨hoff, hoff.congr (pllWriteCode_sameClockRegs m p s)⟩
  · exact absurd rfl hne
  · exact (hne (waitUntil_pllcfgr s _ _ fun _ => rfl)).elim

theorem pllIsOff_of_controllerStep {s t : State} {src m n p : Nat} (hinv : StateInv s)
    (hr : Runs s (.pllConfig src m n p)) (h : controllerStep s = .next t)
    (hne : t.pllcfgr ≠ s.pllcfgr) : PllIsOff s ∧ PllIsOff t := by
  obtain ⟨-, rfl⟩ | ⟨hp, i, hri, hexec⟩ | ⟨-, -, rfl⟩ := controllerStep_cases h
  · exact absurd rfl hne
  · cases runs_unique hr hri
    exact pllIsOff_of_pllcfgr_changed (hinv.prepared hr hp) hexec hne
  · exact absurd rfl hne

/-- No agent but the controller and a reset writes PLLCFGR (R33, R210). -/
theorem controllerStep_of_pllcfgr_changed {s t : State} (h : step s = .next t)
    (hreset : resetIsNext s = false) (hne : t.pllcfgr ≠ s.pllcfgr) :
    ∃ l, controllerStep { s with schedule := l } = .next t := by
  obtain ⟨hctl, -⟩ | ⟨rest, m, hsched, hmove⟩ := step_cases h
  · exact ⟨s.schedule, hctl⟩
  · obtain ⟨-, hctl⟩ | ⟨c, -, rfl⟩ | ⟨-, rfl⟩ | ⟨w, -, -, rfl⟩ | ⟨a, n, -, rfl⟩ | ⟨-, rfl⟩ |
      ⟨rfl, -⟩ := hmove
    · exact ⟨rest, hctl⟩
    · obtain ⟨-, hset⟩ | ⟨-, hset⟩ := envReady_cases { s with schedule := rest } c <;>
        exact absurd (congrArg State.pllcfgr hset) hne
    · obtain ⟨-, hset⟩ | ⟨-, hset⟩ := envSwitch_cases { s with schedule := rest } <;>
        exact absurd (congrArg State.pllcfgr hset) hne
    · exact absurd rfl hne
    · obtain ⟨_, -, hread⟩ | ⟨-, hread⟩ := hostRead_cases { s with schedule := rest } a n <;>
        exact absurd (by rw [hread]) hne
    · exact absurd rfl hne
    · simp [resetIsNext, hsched] at hreset

/-- Settles O39: a change of PLLCFGR changes one of its bits, whose only owner is PLL_CONFIG; and the
three phases that write it stand after the wait for PLLRDY = 0. -/
theorem pllcfgrRewrittenOnlyWhileOff : Obligations.PllcfgrRewrittenOnlyWhileOff := by
  intro s t hinv hreset h hne
  obtain ⟨j, hj⟩ : ∃ j, t.pllcfgr.getLsbD j ≠ s.pllcfgr.getLsbD j := by
    by_contra hsame
    simp only [not_exists, not_not] at hsame
    exact hne (word_ext _ _ fun j _ => hsame j)
  obtain ⟨hruns, -⟩ := (bitOwner_of_step (r := .pllcfgr) h hreset hj).pllConfig
  obtain ⟨src, m, n, p, hr⟩ := hruns
  obtain ⟨l, hctl⟩ := controllerStep_of_pllcfgr_changed h hreset hne
  obtain ⟨hoff, hoff'⟩ := pllIsOff_of_controllerStep (schedule_inv hinv l) hr hctl hne
  exact ⟨⟨src, m, n, p, hr⟩, ⟨hoff.off, hoff.unlocked⟩, hoff'⟩

/-! ### The parameters and the recorded faults -/

/-- The parameters are kept and the faults of `s` are still recorded in `t` (R8, R188). -/
structure KeepsRecord (s t : State) : Prop where
  cfg : t.cfg = s.cfg
  faults : s.faults <:+ t.faults

theorem KeepsRecord.trans {s t u : State} (h1 : KeepsRecord s t) (h2 : KeepsRecord t u) :
    KeepsRecord s u :=
  ⟨h2.cfg.trans h1.cfg, h1.faults.trans h2.faults⟩

theorem controllerStep_keepsRecord {s t : State} (h : controllerStep s = .next t) :
    KeepsRecord s t := by
  obtain ⟨-, rfl⟩ | ⟨-, i, -, hexec⟩ | ⟨-, -, rfl⟩ := controllerStep_cases h
  · exact ⟨rfl, List.suffix_rfl⟩
  · obtain ⟨u, hw, hsame⟩ := exec_written hexec
    rw [hsame, hw.frame]
    exact ⟨rfl, List.suffix_rfl⟩
  · exact ⟨rfl, List.suffix_rfl⟩

theorem step_keepsRecord {s t : State} (h : step s = .next t) : KeepsRecord s t := by
  obtain ⟨hctl, -⟩ | ⟨rest, m, -, hmove⟩ := step_cases h
  · exact controllerStep_keepsRecord hctl
  · obtain ⟨-, hctl⟩ | ⟨c, -, rfl⟩ | ⟨-, rfl⟩ | ⟨w, -, -, rfl⟩ | ⟨a, n, -, rfl⟩ | ⟨-, rfl⟩ |
      ⟨-, rfl⟩ := hmove
    · obtain ⟨hcfg, hfaults⟩ := controllerStep_keepsRecord hctl
      exact ⟨hcfg, hfaults⟩
    · obtain ⟨-, hset⟩ | ⟨-, hset⟩ := envReady_cases { s with schedule := rest } c <;> rw [hset] <;>
        exact ⟨rfl, List.suffix_rfl⟩
    · obtain ⟨-, hset⟩ | ⟨-, hset⟩ := envSwitch_cases { s with schedule := rest } <;> rw [hset] <;>
        exact ⟨rfl, List.suffix_rfl⟩
    · exact ⟨rfl, List.suffix_rfl⟩
    · obtain ⟨_, -, hread⟩ | ⟨-, hread⟩ := hostRead_cases { s with schedule := rest } a n <;>
        rw [hread]
      · exact ⟨rfl, List.suffix_rfl⟩
      · exact ⟨rfl, List.suffix_cons _ _⟩
    · exact ⟨rfl, List.suffix_rfl⟩
    · exact ⟨rfl, List.suffix_rfl⟩

/-- Settles O49: every step keeps the record, and so does every run. -/
theorem parametersAndFaultsAreKept : Obligations.ParametersAndFaultsAreKept := by
  intro n s t hrun
  have hkept : KeepsRecord s t :=
    stepN_keeps (P := KeepsRecord s) (fun _ _ hs h => hs.trans (step_keepsRecord h))
      ⟨rfl, List.suffix_rfl⟩ hrun
  exact ⟨hkept.cfg, hkept.faults⟩

end Sys2Proof.Machine
end

section
/-! PROOFS. The running command: its latch and its last status change only at its end (10_state.md
R42, R43), and what its end OK guarantees (41_clock_source.md R124; 42_sysclk_select.md R132;
44_pll_config.md R160, R162), which is what the last phase has `Achieved`. -/

namespace Sys2Proof.Machine

/-! ### The latch and the last status -/

/-- A command that ran in `s` has ended in `t`. -/
structure CommandEnded (s t : State) : Prop where
  ran : s.phase ≠ .idle
  busy : t.busy = false
  cmd : t.cmd = none

theorem exec_sameCommand_or_ended {i : Instr} {s t : State} (hp : s.phase ≠ .idle)
    (h : exec i s = .next t) : SameCommand s t ∨ CommandEnded s t := by
  obtain ⟨-, rfl⟩ | ⟨-, rfl⟩ | ⟨u, ph, hw, -, hframe, -, -⟩ | ⟨u, hw, rfl, -⟩ := exec_effect h
  · obtain ⟨-, h⟩ | ⟨_, -, -, h⟩ | ⟨_, -, -, h⟩ := failedPoll_cases s <;> rw [h]
    · exact .inl ⟨rfl, rfl, rfl⟩
    · exact .inr ⟨hp, rfl, rfl⟩
    · exact .inl ⟨rfl, rfl, rfl⟩
  · exact .inr ⟨hp, rfl, rfl⟩
  · exact .inl (sameCommand_of_goesOn hw hframe)
  · exact .inr ⟨hp, rfl, rfl⟩

theorem controllerStep_sameCommand_or_ended {s t : State} (h : controllerStep s = .next t) :
    SameCommand s t ∨ CommandEnded s t := by
  obtain ⟨-, rfl⟩ | ⟨hp, i, -, hexec⟩ | ⟨hp, -, rfl⟩ := controllerStep_cases h
  · exact .inl ⟨rfl, rfl, rfl⟩
  · exact exec_sameCommand_or_ended hp hexec
  · exact .inr ⟨by simp [hp], rfl, rfl⟩

/-- What a step other than a reset does to the flags and the latch: nothing, the end of the running
command, or an issue, which leaves the last status (R42, R43, R100). -/
theorem step_sameCommand_or_ended {s t : State} (h : step s = .next t)
    (hreset : resetIsNext s = false) :
    SameCommand s t ∨ CommandEnded s t ∨ (s.busy = false ∧ t.lastStatus = s.lastStatus) := by
  obtain ⟨hctl, -⟩ | ⟨rest, m, hsched, hmove⟩ := step_cases h
  · obtain hsame | hended := controllerStep_sameCommand_or_ended hctl
    · exact .inl hsame
    · exact .inr (.inl hended)
  · obtain ⟨-, hctl⟩ | ⟨c, -, rfl⟩ | ⟨-, rfl⟩ | ⟨w, -, hfree, rfl⟩ | ⟨a, n, -, rfl⟩ | ⟨-, rfl⟩ |
      ⟨rfl, -⟩ := hmove
    · obtain ⟨hbusy, hcmd, hstatus⟩ | ⟨hran, hbusy, hcmd⟩ :=
        controllerStep_sameCommand_or_ended hctl
      · exact .inl ⟨hbusy, hcmd, hstatus⟩
      · exact .inr (.inl ⟨hran, hbusy, hcmd⟩)
    · obtain ⟨-, hset⟩ | ⟨-, hset⟩ := envReady_cases { s with schedule := rest } c <;> rw [hset] <;>
        exact .inl ⟨rfl, rfl, rfl⟩
    · obtain ⟨-, hset⟩ | ⟨-, hset⟩ := envSwitch_cases { s with schedule := rest } <;> rw [hset] <;>
        exact .inl ⟨rfl, rfl, rfl⟩
    · exact .inr (.inr ⟨hfree, rfl⟩)
    · obtain ⟨_, -, hread⟩ | ⟨-, hread⟩ := hostRead_cases { s with schedule := rest } a n <;>
        rw [hread] <;> exact .inl ⟨rfl, rfl, rfl⟩
    · exact .inl ⟨rfl, rfl, rfl⟩
    · simp [resetIsNext, hsched] at hreset

/-- Settles O46: while the command runs there is no issue, so the latch stays or the command ends. -/
theorem latchStaysUntilTheEnd : Obligations.LatchStaysUntilTheEnd := by
  intro s t _ hbusy hreset h
  obtain ⟨hbusy', hcmd, -⟩ | ⟨-, hidle, hcmd⟩ | ⟨hfree, -⟩ := step_sameCommand_or_ended h hreset
  · exact .inl ⟨hbusy'.trans hbusy, hcmd⟩
  · exact .inr ⟨hidle, hcmd⟩
  · simp [hbusy] at hfree

/-- Settles O47: of what a step other than a reset can do, only an end changes the last status. -/
theorem lastStatusChangesOnlyAtTheEnd : Obligations.LastStatusChangesOnlyAtTheEnd := by
  intro s t hinv h hne
  cases hreset : resetIsNext s with
  | true => exact .inl rfl
  | false =>
    obtain ⟨-, -, hsame⟩ | ⟨hran, hidle, -⟩ | ⟨-, hsame⟩ := step_sameCommand_or_ended h hreset
    · exact absurd hsame hne
    · exact .inr ⟨h, hreset, hinv.busy_of_phase hran, hidle⟩
    · exact absurd hsame hne

/-! ### What an end OK guarantees -/

/-- A controller step that ends the running command with status OK has achieved what the command
asked for: every other end gives another status. -/
theorem exec_achieved {i : Instr} {s t : State} (hs : Prepared i s) (h : exec i s = .next t)
    (hbusy : s.busy = true) (hidle : t.busy = false) (hok : t.lastStatus = some .ok) :
    Achieved i t := by
  obtain ⟨hwait, rfl⟩ | ⟨-, rfl⟩ | ⟨u, ph, hw, -, hframe, -, -⟩ | ⟨u, -, -, hachieved⟩ :=
    exec_effect h
  · obtain ⟨hend, -⟩ := failedPoll_ends hbusy hidle
    rw [hend] at hok
    cases hok
  · cases hok
  · have hsame := (sameCommand_of_goesOn hw hframe).busy
    simp [hsame, hbusy] at hidle
  · exact hachieved hs

/-- From a state with the invariant, a command that ends OK has achieved what it asked for. -/
theorem achieved_of_endsOk {i : Instr} {s t : State} (hinv : StateInv s) (hends : EndsCommand s t)
    (hok : t.lastStatus = some .ok) (hr : Runs s i) : Achieved i t := by
  obtain ⟨rest, hctl⟩ := controllerStep_of_endsCommand hends
  obtain ⟨hp, -⟩ | ⟨hp, j, hrj, hexec⟩ | ⟨-, -, rfl⟩ := controllerStep_cases hctl
  · exact absurd hp (hinv.busyIff.1 hends.wasBusy)
  · cases runs_unique (s := s) hr hrj
    exact exec_achieved ((schedule_inv hinv rest).prepared hr hp) hexec hends.wasBusy
      hends.nowIdle hok
  · cases hok

/-- Settles O24: both bits are what the two commands have achieved for the source of the id. -/
theorem clkEndsOkOnlyWhenReady : Obligations.ClkEndsOkOnlyWhenReady := by
  intro s t src c hinv hends hok hc
  have both (on : Bool) (hr : Runs s (clkCommand src on)) : t.isOn c = on ∧ t.isReady c = on := by
    obtain ⟨d, hd, hbits⟩ := achieved_clkCommand.1 (achieved_of_endsOk hinv hends hok hr)
    cases hc.symm.trans hd
    exact hbits
  exact ⟨both true, both false⟩

/-- Settles O27: SW and SWS are what SYSCLK_SELECT has achieved. -/
theorem sysclkEndsOkOnlyWhenSwitched : Obligations.SysclkEndsOkOnlyWhenSwitched := by
  intro s t val hinv hends hok hr
  have hachieved : Achieved (.sysclkSelect val) t := achieved_of_endsOk hinv hends hok hr
  exact hachieved

/-- Settles O38: the PLL's bits and fields are what PLL_CONFIG has achieved, and the code that has
been written stands for the divider it was looked up for. -/
theorem pllEndsOkOnlyWhenConfigured : Obligations.PllEndsOkOnlyWhenConfigured := by
  intro s t src m n p hinv hends hok hr
  obtain ⟨⟨hon, hready⟩, ⟨hlegal, hsrc⟩, -, ⟨hm, hn⟩, hcode⟩ := achieved_of_endsOk hinv hends hok hr
  refine ⟨hon, hready, hlegal, hsrc, hm, hn, ?_⟩
  rw [dividerOfCode_of_pcode hcode, (step_keepsRecord hends.stepped).cfg, dividerOf_eq]

/-- Settles O40: a PLL_CONFIG that ends OK has found a code for its divider, which is M; an M without
a code ends the command in PLL_P, where M and N stand and the PLL is off. -/
theorem pllFromMNeedsDividerM : Obligations.PllFromMNeedsDividerM := by
  intro s t src m n p hinv hmode hr
  have hdivider : dividerOf s.cfg.pSource m p = m := by rw [hmode]; rfl
  refine ⟨fun hends hok => ?_, fun hphase hm => ?_⟩
  · obtain ⟨-, -, -, -, hcode⟩ := achieved_of_endsOk hinv hends hok hr
    rw [CodeWritten, (step_keepsRecord hends.stepped).cfg, hdivider] at hcode
    by_contra hm
    simp [(pcode_none m).2 hm] at hcode
  · obtain ⟨hoff, -, -, hfactors⟩ : PllIsOff s ∧ SourceWritten src s ∧ FactorsLegal m n ∧
        FactorsWritten m n s := pllProgress_of_runs hinv hr hphase (by decide) (by decide)
    have hnone : pcode (dividerOf s.cfg.pSource m p) = none := by rw [hdivider, pcode_none]; exact hm
    exact ⟨by rw [exec_pllConfig_pllP src m n p hphase, pllWriteCode_of_no_code hnone],
      hfactors.mWritten, hfactors.nWritten, hoff.off⟩

end Sys2Proof.Machine
end

section
/-! PROOFS. The encoding round trip (30_encoding.md R82 to R92). A word is put together from the
fields of its format, which lie apart: reading one of them back gives the operand, and the fields of
a word together with the bits that its row's mask fixes are the whole word. -/

namespace Sys2Proof

/-! ### A field of a word that is put together from fields -/

/-- A field of two overlaid words. -/
theorem fieldOf_or (a b : Word) (lo n : Nat) :
    fieldOf (a ||| b) lo n = fieldOf a lo n ||| fieldOf b lo n := by
  apply Nat.eq_of_testBit_eq
  intro k
  simp only [Nat.testBit_or, testBit_fieldOf, BitVec.getLsbD_or, Bool.and_or_distrib_left]

/-- A field reads back a value that fits it (R82). -/
theorem fieldOf_placeField_same {lo n v : Nat} (hin : lo + n ≤ 32) (hv : fitsField n v = true) :
    fieldOf (placeField lo n v) lo n = v := by
  have hlt : v < 2 ^ n := by simpa [fitsField] using hv
  apply Nat.eq_of_testBit_eq
  intro k
  rw [testBit_fieldOf, getLsbD_placeField, Nat.add_sub_cancel_left]
  by_cases hk : k < n
  · simp [hk, show lo + k < 32 by omega]
  · simp [hk, Nat.testBit_lt_two_pow (hlt.trans_le (Nat.pow_le_pow_right two_pos (not_lt.1 hk)))]

/-- A field that lies apart from the placed one reads 0. -/
theorem fieldOf_placeField_apart {lo n v a k : Nat} (h : a + k ≤ lo ∨ lo + n ≤ a) :
    fieldOf (placeField lo n v) a k = 0 := by
  apply Nat.eq_of_testBit_eq
  intro j
  rw [testBit_fieldOf, getLsbD_placeField, Nat.zero_testBit]
  by_cases hj : j < k
  · simp [hj]
    omega
  · simp [hj]

theorem fitsField_busCode (b : Bus) : fitsField 2 (busCode b) = true := by cases b <;> rfl

/-! ### Decoding the word of a command -/

/-- The word of a command selects the row of the command's opcode (R90). -/
theorem encode_selects (i : Instr) : (rowOf (opcodeOf i)).selects (encode i) = true := by
  cases i with
  | clkEnable src => exact Laws.EncodeSelectsRow.clkEnable src
  | clkDisable src => exact Laws.EncodeSelectsRow.clkDisable src
  | sysclkSelect val => exact Laws.EncodeSelectsRow.sysclkSelect val
  | hseBypass val => exact Laws.EncodeSelectsRow.hseBypass val
  | pllConfig src m n p => exact Laws.EncodeSelectsRow.pllConfig src m n p
  | periphEnable bus pos => exact Laws.EncodeSelectsRow.periphEnable bus pos
  | periphDisable bus pos => exact Laws.EncodeSelectsRow.periphDisable bus pos

/-- Format F_SRC (R83). -/
theorem fieldOf_encodeSrc (op : Nat) {src : Nat} (h : fitsField 3 src = true) :
    fieldOf (encodeSrc op src) 4 3 = src := by
  simp [encodeSrc, fieldOf_or, fieldOf_placeField_same, fieldOf_placeField_apart, h]

/-- Format F_VAL (R84). -/
theorem fieldOf_encodeVal (op : Nat) {val : Nat} (h : fitsField 8 val = true) :
    fieldOf (encodeVal op val) 4 8 = val := by
  simp [encodeVal, fieldOf_or, fieldOf_placeField_same, fieldOf_placeField_apart, h]

/-- Format F_GATE: the bus (R87, R89). -/
theorem fieldOf_encodeGate_bus (op : Nat) (bus : Bus) (pos : Nat) :
    busOfNat (fieldOf (encodeGate op bus pos) 4 2) = bus := by
  simp [encodeGate, fieldOf_or, fieldOf_placeField_same, fieldOf_placeField_apart,
    fitsField_busCode, busOfNat_busCode]

/-- Format F_GATE: the position (R87). -/
theorem fieldOf_encodeGate_pos (op : Nat) (bus : Bus) {pos : Nat} (h : fitsField 6 pos = true) :
    fieldOf (encodeGate op bus pos) 6 6 = pos := by
  simp [encodeGate, fieldOf_or, fieldOf_placeField_same, fieldOf_placeField_apart, h]

/-- Format F_PLL (R85). -/
theorem fieldOf_encodePll (op : Nat) {src m n p : Nat} (hsrc : fitsField 3 src = true)
    (hm : fitsField 8 m = true) (hn : fitsField 10 n = true) (hp : fitsField 4 p = true) :
    fieldOf (encodePll op src m n p) 4 3 = src ∧ fieldOf (encodePll op src m n p) 7 8 = m ∧
    fieldOf (encodePll op src m n p) 15 10 = n ∧ fieldOf (encodePll op src m n p) 25 4 = p := by
  simp [encodePll, fieldOf_or, fieldOf_placeField_same, fieldOf_placeField_apart, hsrc, hm, hn, hp]

/-- The operands of a well-formed command are the fields of its word (R82). -/
theorem operandsOf_encode {i : Instr} (h : i.wellFormed = true) :
    operandsOf (encode i) (opcodeOf i) = i := by
  cases i with
  | clkEnable src => exact congrArg Instr.clkEnable (fieldOf_encodeSrc 1 h)
  | clkDisable src => exact congrArg Instr.clkDisable (fieldOf_encodeSrc 2 h)
  | sysclkSelect val => exact congrArg Instr.sysclkSelect (fieldOf_encodeVal 3 h)
  | hseBypass val => exact congrArg Instr.hseBypass (fieldOf_encodeVal 4 h)
  | pllConfig src m n p =>
    simp only [Instr.wellFormed, Bool.and_eq_true] at h
    obtain ⟨⟨⟨hsrc, hm⟩, hn⟩, hp⟩ := h
    obtain ⟨esrc, em, en, ep⟩ := fieldOf_encodePll 5 hsrc hm hn hp
    simp only [operandsOf, opcodeOf, encode, esrc, em, en, ep]
  | periphEnable bus pos =>
    exact congrArg₂ Instr.periphEnable (fieldOf_encodeGate_bus 6 bus pos)
      (fieldOf_encodeGate_pos 6 bus h)
  | periphDisable bus pos =>
    exact congrArg₂ Instr.periphDisable (fieldOf_encodeGate_bus 7 bus pos)
      (fieldOf_encodeGate_pos 7 bus h)

/-- Settles O1: the word selects the row of the command, so it decodes to that row's command with the
operands in its fields, which are the ones that were placed there. -/
theorem decodeOfEncode : Obligations.DecodeOfEncode := by
  intro i hwf
  rw [decode_of_selects (encode_selects i), operandsOf_encode hwf]

/-! ### Encoding the command of a word -/

theorem fitsField_fieldOf (w : Word) (lo n : Nat) : fitsField n (fieldOf w lo n) = true := by
  simpa [fitsField] using fieldOf_lt w lo n

theorem busCode_fieldOf (w : Word) (lo : Nat) :
    busCode (busOfNat (fieldOf w lo 2)) = fieldOf w lo 2 :=
  busCode_busOfNat _ (fieldOf_lt w lo 2)

/-- A field that is read and placed again is the word with its other bits cleared. -/
theorem placeField_fieldOf (w : Word) (lo n : Nat) :
    placeField lo n (fieldOf w lo n) = w &&& Machine.fieldMask lo n := by
  apply word_ext
  intro j hj
  rw [getLsbD_placeField, testBit_fieldOf, BitVec.getLsbD_and, Machine.fieldMask]
  by_cases hlo : lo ≤ j
  · by_cases hhi : j < lo + n
    · simp [hlo, hj, hhi, show j - lo < n by omega, show ¬ j < lo by omega]
    · simp [hhi, show ¬ j - lo < n by omega]
  · simp [hlo, show j < lo by omega]

/-- The word of the operands that are read from a word of the row (R90): what the row's mask leaves
out are the fields. -/
theorem encode_operandsOf {w : Word} {op : Opcode}
    (h : w &&& (rowOf op).mask = (rowOf op).pattern) : encode (operandsOf w op) = w := by
  have hop : placeField 0 4 (opcodeCode op) = w &&& (rowOf op).mask := by
    rw [h]
    cases op <;> rfl
  have whole (m : Word) (hm : m = BitVec.allOnes 32) : w &&& m = w := by
    rw [hm, BitVec.and_allOnes]
  cases op <;>
    simp only [opcodeCode] at hop <;>
    simp only [operandsOf, encode, encodeSrc, encodeVal, encodePll, encodeGate, busCode_fieldOf,
      placeField_fieldOf, hop, ← BitVec.and_or_distrib_left] <;>
    exact whole _ (by decide)

/-- The operands that are read from a word fit their fields (R93). -/
theorem wellFormed_operandsOf (w : Word) (op : Opcode) : (operandsOf w op).wellFormed = true := by
  cases op <;> simp [operandsOf, Instr.wellFormed, fitsField_fieldOf]

/-- Settles O2: a word that decodes selects its opcode's row, and the command is the row's with the
word's fields as operands. -/
theorem encodeOfDecode : Obligations.EncodeOfDecode := by
  intro w i h
  obtain ⟨op, -, hsel, rfl⟩ := decode_ok_cases h
  exact ⟨encode_operandsOf hsel, wellFormed_operandsOf w op⟩

/-! ### The opcode map -/

/-- Two rows that a word selects are the same row (R90). -/
theorem row_unique {w : Word} {op op' : Opcode} (h : (rowOf op).selects w = true)
    (h' : (rowOf op').selects w = true) : op = op' :=
  Option.some.inj ((selects_opcode w op ((selects_iff _ _).1 h)).symm.trans
    (selects_opcode w op' ((selects_iff _ _).1 h')))

/-- A word that does not decode selects no row (R97). -/
theorem selects_none_of_error {w : Word} {e : DecodeError} (h : decode w = .error e) :
    ∀ r ∈ opcodeTable, r.selects w = false := by
  intro r hr
  obtain ⟨op, rfl⟩ := mem_rowOf hr
  by_contra hsel
  rw [Bool.not_eq_false] at hsel
  cases h.symm.trans (decode_of_selects hsel)

/-- Why a word does not decode (R91, R92). -/
theorem decode_error_cases {w : Word} {e : DecodeError} (h : decode w = .error e) :
    (e = .reservedOpcode ∧ (fieldOf w 0 4 = 0 ∨ 8 ≤ fieldOf w 0 4)) ∨
    (e = .reservedBits ∧ 1 ≤ fieldOf w 0 4 ∧ fieldOf w 0 4 ≤ 7) := by
  unfold decode at h
  obtain ⟨op, hop, hlow, hhigh⟩ | ⟨hnone, hcode⟩ := opcodeOfNat_cases w
  · rw [hop] at h
    simp only at h
    split at h
    · cases h
    · cases h
      exact .inr ⟨rfl, hlow, hhigh⟩
  · rw [hnone] at h
    cases h
    exact .inl ⟨rfl, hcode⟩

/-- Settles O3: a word that decodes selects its opcode's row and no second one; one that does not
selects none, for one of the two causes. -/
theorem everyWordSelectsOneRowOrIsIllegal : Obligations.EveryWordSelectsOneRowOrIsIllegal := by
  intro w
  cases hd : decode w with
  | ok i =>
    obtain ⟨op, -, hmask, rfl⟩ := decode_ok_cases hd
    have hsel : (rowOf op).selects w = true := (selects_iff _ _).2 hmask
    refine .inl ⟨_, rfl, fun r hr => ?_⟩
    obtain ⟨op', rfl⟩ := mem_rowOf hr
    rw [opcodeOf_operandsOf]
    constructor
    · intro hsel'
      rw [row_unique hsel hsel']
    · intro heq
      rw [heq, hsel]
  | error e =>
    refine .inr ⟨selects_none_of_error hd, ?_⟩
    obtain ⟨rfl, hcode⟩ | ⟨rfl, hcode⟩ := decode_error_cases hd
    · exact .inl ⟨rfl, hcode⟩
    · exact .inr ⟨rfl, hcode⟩

/-- Settles O4: each word is evaluated. -/
theorem specWordsDecode : Obligations.SpecWordsDecode :=
  ⟨rfl, rfl, rfl, rfl, rfl, rfl, rfl, rfl, rfl⟩

end Sys2Proof
end

section
/-! PROOFS. The moves of the agents (10_state.md R20; 20_memory.md R63, R64; 40_command_cycle.md
R100, R104; 60_exceptions.md R190, R191) and reset (70_reset_and_hazards.md R210, R211). -/

namespace Sys2Proof.Machine

/-! ### The controller and the host -/

/-- Settles O7: in each of the three cases the step is the controller's, which is the latched
command's. -/
theorem stepRunsDecodedCommand : Obligations.StepRunsDecodedCommand := by
  intro s w i hp hc hd _
  have hctl : controllerStep s = exec i s := controllerStep_of_decode_ok hp hc hd
  refine ⟨fun hsched => ?_, fun rest hsched => ?_, fun v rest hsched hbusy => ?_⟩
  · rw [step_of_schedule_nil hsched, hctl]
  · simp only [step, agentStep, hsched]
    exact controllerStep_of_decode_ok hp hc hd
  · simp only [step, agentStep, hsched, hbusy, if_true]
    exact hctl

/-- Settles O10: the host's issue is the one move that looks at `busy`. -/
theorem issueLoadsLatchOnlyWhenIdle : Obligations.IssueLoadsLatchOnlyWhenIdle := by
  intro s w rest hsched
  simp only [step, agentStep, hsched]
  refine ⟨fun hfree => ?_, fun hbusy => by rw [if_pos hbusy]⟩
  rw [if_neg (by simp [hfree])]
  rfl

/-- Settles O12: the read writes the response alone. -/
theorem statusReadReturnsFlags : Obligations.StatusReadReturnsFlags := by
  intro s rest hsched
  simp only [step, agentStep, hsched]
  rfl

/-! ### The host's register read -/

theorem legalOffset_of_bus {p : Params} (h : p.Legal) (b : Bus) :
    LegalOffset (busGet p.enrOffset b) := by
  cases b with
  | bus0 => exact h.offset0
  | bus1 => exact h.offset1
  | bus2 => exact h.offset2
  | bus3 => exact h.offset3

/-- The four ENR registers have different offsets (R8). -/
theorem enrOffset_inj {p : Params} (h : p.Legal) {b c : Bus}
    (heq : busGet p.enrOffset b = busGet p.enrOffset c) : b = c := by
  have hdistinct := h.distinct
  simp only [List.nodup_cons, List.mem_cons, List.not_mem_nil, or_false, not_or] at hdistinct
  obtain ⟨⟨h01, h02, h03⟩, ⟨h12, h13⟩, h23, -⟩ := hdistinct
  cases b <;> cases c <;> simp only [busGet, reduceCtorEq] at heq ⊢ <;> omega

/-- No ENR register has the offset of CR, PLLCFGR or CFGR (R8). -/
theorem enrOffset_ne {p : Params} (h : p.Legal) (b : Bus) :
    busGet p.enrOffset b ≠ 0x00 ∧ busGet p.enrOffset b ≠ 0x04 ∧ busGet p.enrOffset b ≠ 0x08 := by
  simpa using (legalOffset_of_bus h b).notFixed

/-- Two registers have different addresses (R8, R62). -/
theorem regAddress_inj {p : Params} (h : p.Legal) {q r : RegId}
    (heq : regAddress p q = regAddress p r) : q = r := by
  have hoff : regOffset p q = regOffset p r := Nat.add_left_cancel heq
  cases q with
  | enr b =>
    obtain ⟨h0, h4, h8⟩ := enrOffset_ne h b
    cases r with
    | enr c => rw [enrOffset_inj h hoff]
    | cr => exact absurd hoff h0
    | pllcfgr => exact absurd hoff h4
    | cfgr => exact absurd hoff h8
  | _ =>
    cases r with
    | enr c =>
      obtain ⟨h0, h4, h8⟩ := enrOffset_ne h c
      simp only [regOffset] at hoff
      omega
    | _ => simp [regOffset] at hoff ⊢

/-- The register at an address is the one whose address it is (R60, R61). -/
theorem regAt_eq_some {p : Params} (h : p.Legal) {a : Word} {r : RegId}
    (ha : a.toNat = regAddress p r) : regAt p a = some r := by
  cases hq : regAt p a with
  | some q => rw [regAddress_inj h ((regAt_address p a q hq).trans ha)]
  | none =>
    have hmem : r ∈ allRegs := by
      cases r with
      | enr b => cases b <;> simp [allRegs]
      | _ => simp [allRegs]
    have hnot := List.find?_eq_none.1 hq r hmem
    simp [ha] at hnot

theorem regAt_eq_none {p : Params} {a : Word} (h : ∀ r, a.toNat ≠ regAddress p r) :
    regAt p a = none := by
  cases hq : regAt p a with
  | none => rfl
  | some q => exact absurd (regAt_address p a q hq).symm (h q)

/-- A 32-bit read at a register's address returns the register (R63). -/
theorem memRead_of_address {s : State} {a : Word} {size : Nat} {r : RegId} (hl : s.cfg.Legal)
    (hsize : size = 4) (ha : a.toNat = regAddress s.cfg r) : memRead s a size = .ok (s.reg r) := by
  simp [memRead, hsize, regAt_eq_some hl ha]

/-- Every other read is UNMAPPED_READ (R64). -/
theorem memRead_of_unmapped {s : State} {a : Word} {size : Nat}
    (h : size ≠ 4 ∨ ∀ r, a.toNat ≠ regAddress s.cfg r) :
    memRead s a size = .error (.unmappedRead a size) := by
  obtain hsize | ha := h
  · simp [memRead, hsize]
  · simp [memRead, regAt_eq_none ha]

/-- Settles O11: legal parameters give the registers different addresses, so the read finds the
register that was asked for. -/
theorem hostReadReturnsRegisterOrFault : Obligations.HostReadReturnsRegisterOrFault := by
  intro s a size rest hlegal hsched
  simp only [step, agentStep, hsched, State.hostRead]
  refine ⟨fun r hsize ha => ?_, fun hunmapped => ?_⟩
  · have hread := memRead_of_address (s := { s with schedule := rest }) hlegal hsize ha
    rw [hread]
    cases r <;> rfl
  · rw [memRead_of_unmapped (s := { s with schedule := rest }) hunmapped]

/-! ### The clock environment -/

/-- Settles O57: a move whose bits already agree is the identity on the state it moves. -/
theorem disabledEnvironmentMovesChangeNothing :
    Obligations.DisabledEnvironmentMovesChangeNothing := by
  refine ⟨fun s c rest hsched heq => ?_, fun s rest hsched heq => ?_⟩
  · obtain ⟨-, hset⟩ | ⟨hne, -⟩ := envReady_cases { s with schedule := rest } c
    · simp only [step, agentStep, hsched, hset]
    · exact absurd heq hne
  · obtain ⟨-, hset⟩ | ⟨hne, -⟩ := envSwitch_cases { s with schedule := rest }
    · simp only [step, agentStep, hsched, hset]
    · exact absurd heq hne

/-! ### Reset -/

/-- A command run in IDLE reads a latch that holds no value (R39). -/
theorem exec_idle (i : Instr) {s : State} (hp : s.phase = .idle) :
    exec i s = .fault .cmdNoValue := by
  have hfault : s.strayFault = .cmdNoValue := by rw [State.strayFault, if_pos hp]
  cases i with
  | clkEnable src => simp only [exec, execClkEnable, hp, hfault]
  | clkDisable src => simp only [exec, execClkDisable, hp, hfault]
  | sysclkSelect val => simp only [exec, execSysclkSelect, hp, hfault]
  | hseBypass val => simp only [exec, execHseBypass, hp, hfault]
  | pllConfig src m n p => simp only [exec, execPllConfig, hp, hfault]
  | periphEnable bus pos => simp only [exec, execPeriphEnable, hp, hfault]
  | periphDisable bus pos => simp only [exec, execPeriphDisable, hp, hfault]

/-- Settles O15: the controller's fields of `State.reset` are read off, and no command has a phase
IDLE. -/
theorem controllerResetValues : Obligations.ControllerResetValues :=
  ⟨⟨rfl, rfl, rfl, rfl, rfl⟩, fun i _ hp => exec_idle i hp⟩

/-- A bit of CR after reset: an owned one is HSION's or HSIRDY's 1 or a 0, and an unowned one is the
parameter's or, in the byte [15:8], the drawn one (R35). -/
theorem getLsbD_resetCr (p : Params) (cal : BitVec 8) {j : Nat} (hj : j < 32) :
    (resetCr p cal).getLsbD j =
      if j ∈ crOwnedBits p then decide (j < 2)
      else if 8 ≤ j ∧ j < 16 then cal.getLsbD (j - 8) else p.crResetOther.getLsbD j := by
  have hown : (0x00000003#32).getLsbD j = decide (j < 2) := by interval_cases j <;> rfl
  have hbyte : (8 ≤ j ∧ j < 8 + 8 ∧ j < 32) ↔ (8 ≤ j ∧ j < 16) := by omega
  simp only [resetCr, getLsbD_mixOwned _ _ _ j hj, getLsbD_setField, hown, hbyte]

/-- Settles O16: CR's bits are the owned values, the drawn byte and the suggested 0x80; the other
registers are computed. -/
theorem resetRegisterValues : Obligations.ResetRegisterValues := by
  refine ⟨?_, by decide, by decide, rfl⟩
  apply word_ext
  intro j hj
  have hcr : State.reset.cr = resetCr Params.suggested (Config.hsiCal 0) := rfl
  rw [hcr, getLsbD_resetCr _ _ hj]
  generalize Config.hsiCal 0 = cal
  simp only [BitVec.getLsbD_or, BitVec.getLsbD_shiftLeft, BitVec.getLsbD_setWidth]
  interval_cases j <;> simp [crOwnedBits, allSources, onBit, rdyBit, hseBypBit, Params.suggested]

theorem onBit_mem_crOwnedBits (p : Params) (c : ClockSource) : onBit p c ∈ crOwnedBits p :=
  mem_crOwnedBits.2 (.inr (.inl ⟨c, rfl⟩))

theorem rdyBit_mem_crOwnedBits (p : Params) (c : ClockSource) : rdyBit p c ∈ crOwnedBits p :=
  mem_crOwnedBits.2 (.inr (.inr ⟨c, rfl⟩))

/-- Of the enable bits only HSION is one of the two low bits, and of the ready bits only HSIRDY (R8,
R25, R26). -/
theorem lowBits_iff_hsi {p : Params} (h : p.Legal) (c : ClockSource) :
    (onBit p c < 2 ↔ c = .hsi) ∧ (rdyBit p c < 2 ↔ c = .hsi) := by
  have hi2s := h.plli2s.onFree
  have hsai := h.pllsai.onFree
  simp only [fixedCrBits, List.mem_cons, List.not_mem_nil, or_false, not_or] at hi2s hsai
  cases c <;> simp only [rdyBit, onBit, reduceCtorEq, iff_false, iff_true] <;> omega

/-- After reset HSI alone is enabled and ready (R35). -/
theorem isOn_assertReset {s : State} (h : s.cfg.Legal) (c : ClockSource) :
    s.assertReset.isOn c = decide (c = .hsi) ∧ s.assertReset.isReady c = decide (c = .hsi) := by
  obtain ⟨hon, hrdy⟩ := lowBits_iff_hsi h c
  have hlt := onBit_lt s.cfg h c
  constructor
  · rw [State.isOn, assertReset_cr, assertReset_cfg, getLsbD_resetCr _ _ (by omega),
      if_pos (onBit_mem_crOwnedBits _ c)]
    simp only [hon]
  · rw [State.isReady, assertReset_cr, assertReset_cfg, getLsbD_resetCr _ _ (rdyBit_lt _ h c),
      if_pos (rdyBit_mem_crOwnedBits _ c)]
    simp only [hrdy]

theorem hseByp_assertReset (s : State) : s.assertReset.hseByp = false := by
  have hmem : hseBypBit ∈ crOwnedBits s.cfg := mem_crOwnedBits.2 (.inl rfl)
  rw [State.hseByp, assertReset_cr, getLsbD_resetCr _ _ (by decide), if_pos hmem]
  rfl

/-- A field of which every bit is owned reads the owned value (R36, R37). -/
theorem getField_mixOwned {l : List Nat} (own other : Word) {lo n : Nat} (hin : lo + n ≤ 32)
    (h : ∀ k < n, lo + k ∈ l) : getField (mixOwned l own other) lo n = getField own lo n := by
  apply BitVec.eq_of_getLsbD_eq
  intro j hj
  simp only [getField, BitVec.getLsbD_extractLsb']
  rw [getLsbD_mixOwned _ _ _ _ (by omega), if_pos (h j hj)]

/-- SW and SWS after reset (R37). -/
theorem selectors_assertReset (s : State) : s.assertReset.sw = 0 ∧ s.assertReset.sws = 0 := by
  constructor
  · exact (getField_mixOwned _ _ (by decide) (by decide)).trans (by decide)
  · exact (getField_mixOwned _ _ (by decide) (by decide)).trans (by decide)

/-- The fields of PLLCFGR after reset (R36). -/
theorem pllFields_assertReset (s : State) :
    s.assertReset.pllM = 16#6 ∧ s.assertReset.pllN = 192#9 ∧ s.assertReset.pllP = 0 ∧
      s.assertReset.pllSrc = false := by
  refine ⟨?_, ?_, ?_, ?_⟩
  · exact (getField_mixOwned _ _ (by decide) (by decide)).trans (by decide)
  · exact (getField_mixOwned _ _ (by decide) (by decide)).trans (by decide)
  · exact (getField_mixOwned _ _ (by decide) (by decide)).trans (by decide)
  · exact (getLsbD_mixOwned _ _ _ _ (by decide)).trans (if_pos (by decide))

/-- Settles O17: a reset writes the owned fields' reset values under the mask of the owned bits, and
the parameters' values outside it. -/
theorem resetMoveRestoresResetState : Obligations.ResetMoveRestoresResetState := by
  intro s rest hlegal hsched
  obtain ⟨hsw, hsws⟩ := selectors_assertReset { s with schedule := rest }
  obtain ⟨hm, hn, hp, hsrc⟩ := pllFields_assertReset { s with schedule := rest }
  refine ⟨({ s with schedule := rest } : State).assertReset,
    by simp only [step, agentStep, hsched], ⟨rfl, rfl, rfl, rfl, rfl⟩, ⟨rfl, rfl, rfl, rfl⟩,
    isOn_assertReset hlegal, hseByp_assertReset _, hsw, hsws,
    ⟨by rw [hm]; rfl, by rw [hn]; rfl, hp, hsrc⟩, rfl, ?_, ?_, ?_⟩
  · intro j hj hnot
    exact (getLsbD_resetCr _ _ hj).trans (if_neg hnot)
  · intro j hj hnot
    exact (getLsbD_mixOwned _ _ _ j hj).trans (if_neg hnot)
  · intro j hj hnot
    exact (getLsbD_mixOwned _ _ _ j hj).trans (if_neg hnot)

end Sys2Proof.Machine
end

section
/-! PROOFS. Single phases of the commands: the polls of the wait phases (40_command_cycle.md R105),
the writes of an enable bit (41_clock_source.md R120, R121; 44_pll_config.md R151, R157) and of a
gate bit (45_clock_gating.md R170, R171). -/

namespace Sys2Proof.Machine

/-! ### A poll that passes -/

/-- The one state in which a clock source command polls (R120, R121). -/
theorem waitCond_clkCommand_eq_some {src : Nat} {on b : Bool} {s : State}
    (h : waitCond (clkCommand src on) s = some b) :
    s.phase = .clkWait ∧ ∃ c, sourceOfId src = some c ∧ (s.isReady c == on) = b := by
  have hp : s.phase = .clkWait := by
    cases on <;> cases hp : s.phase <;> simp [waitCond, clkCommand, hp] at h ⊢
  refine ⟨hp, ?_⟩
  cases hc : sourceOfId src with
  | none => cases on <;> simp [waitCond, clkCommand, hp, hc] at h
  | some c => exact ⟨c, rfl, Option.some.inj ((waitCond_clkCommand hp hc).symm.trans h)⟩

/-- In SYS_WAIT, SYSCLK_SELECT polls SWS (R130). -/
theorem exec_sysclkSelect_sysWait (val : Nat) {s : State} (hp : s.phase = .sysWait) :
    exec (.sysclkSelect val) s = .next (sysWait val s) := by
  simp only [exec, execSysclkSelect, hp]

/-- In PLL_OFF_WAIT, PLL_CONFIG polls PLLRDY (R151). -/
theorem exec_pllConfig_pllOffWait (src m n p : Nat) {s : State} (hp : s.phase = .pllOffWait) :
    exec (.pllConfig src m n p) s = .next (pllOffWait s) := by
  simp only [exec, execPllConfig, hp]

/-- In PLL_ON_WAIT, PLL_CONFIG polls PLLRDY (R157). -/
theorem exec_pllConfig_pllOnWait (src m n p : Nat) {s : State} (hp : s.phase = .pllOnWait) :
    exec (.pllConfig src m n p) s = .next (pllOnWait s) := by
  simp only [exec, execPllConfig, hp]

/-- A poll of CLK_WAIT that finds the requested ready bit ends the command OK (R120, R121). -/
theorem exec_clkCommand_of_ready {src : Nat} {on : Bool} {s : State} {c : ClockSource}
    (hp : s.phase = .clkWait) (hc : sourceOfId src = some c) (hready : s.isReady c = on) :
    exec (clkCommand src on) s = .next (endedWith s .ok) := by
  rw [exec_clkCommand_clkWait hp hc, waitUntil_of_true (by simp [hready])]
  rfl

/-- A poll of SYS_WAIT that finds the requested SWS ends the command OK (R130). -/
theorem exec_sysclkSelect_of_switched {val : Nat} {s : State} (hp : s.phase = .sysWait)
    (hsws : s.sws.toNat = val) : exec (.sysclkSelect val) s = .next (endedWith s .ok) := by
  rw [exec_sysclkSelect_sysWait val hp, sysWait, waitUntil_of_true (by simp [hsws])]
  rfl

/-- A poll of PLL_OFF_WAIT that finds PLLRDY = 0 goes on to step 2 (R151). -/
theorem exec_pllConfig_of_unlocked (src m n p : Nat) {s : State} (hp : s.phase = .pllOffWait)
    (hrdy : s.isReady .pll = false) :
    exec (.pllConfig src m n p) s = .next { s with waitCount := 0, phase := .pllSrc } := by
  rw [exec_pllConfig_pllOffWait src m n p hp, pllOffWait, waitUntil_of_true (by simp [hrdy])]
  rfl

/-- A poll of PLL_ON_WAIT that finds PLLRDY = 1 ends the command OK (R157). -/
theorem exec_pllConfig_of_locked (src m n p : Nat) {s : State} (hp : s.phase = .pllOnWait)
    (hrdy : s.isReady .pll = true) :
    exec (.pllConfig src m n p) s = .next (endedWith s .ok) := by
  rw [exec_pllConfig_pllOnWait src m n p hp, pllOnWait, waitUntil_of_true (by simp [hrdy])]
  rfl

/-- Settles O22: the ready bit is what the poll of CLK_WAIT compares. -/
theorem clkWaitEndsOk : Obligations.ClkWaitEndsOk := by
  intro s src c hp hc
  exact ⟨exec_clkCommand_of_ready (on := true) hp hc, exec_clkCommand_of_ready (on := false) hp hc⟩

/-- Settles O26: SWS is what the poll of SYS_WAIT compares. -/
theorem sysWaitEndsOk : Obligations.SysWaitEndsOk :=
  fun _ _ hp hsws => exec_sysclkSelect_of_switched hp hsws

/-- Settles O30: PLLRDY is CR[25]. -/
theorem pllWaitsPass : Obligations.PllWaitsPass :=
  fun _ src m n p => ⟨exec_pllConfig_of_unlocked src m n p, exec_pllConfig_of_locked src m n p⟩

/-- A poll that finds its condition true goes on to step 2 of PLL_CONFIG, or ends the command OK
(R105). -/
theorem exec_of_waitCond_true {i : Instr} {s : State} (h : waitCond i s = some true) :
    exec i s = .next (if s.phase = .pllOffWait then { s with waitCount := 0, phase := .pllSrc }
      else endedWith s .ok) := by
  have clk (src : Nat) (on : Bool) (hclk : waitCond (clkCommand src on) s = some true) :
      exec (clkCommand src on) s = .next (if s.phase = .pllOffWait
        then { s with waitCount := 0, phase := .pllSrc } else endedWith s .ok) := by
    obtain ⟨hp, c, hc, hready⟩ := waitCond_clkCommand_eq_some hclk
    rw [exec_clkCommand_of_ready hp hc (by simpa using hready), if_neg (by simp [hp])]
  cases i with
  | clkEnable src => exact clk src true h
  | clkDisable src => exact clk src false h
  | sysclkSelect val =>
    cases hp : s.phase <;> simp [waitCond, hp] at h
    rw [exec_sysclkSelect_of_switched hp h, if_neg (by decide)]
  | pllConfig src m n p =>
    cases hp : s.phase <;> simp [waitCond, hp] at h
    · rw [exec_pllConfig_of_unlocked src m n p hp h, if_pos rfl]
    · rw [exec_pllConfig_of_locked src m n p hp h, if_neg (by decide)]
  | _ => simp [waitCond] at h

/-! ### A poll that fails -/

theorem failedPoll_of_none {s : State} (h : s.cfg.waitBound = none) : s.failedPoll = s := by
  simp only [State.failedPoll, h]

theorem failedPoll_of_some {s : State} {k : Nat} (h : s.cfg.waitBound = some k) :
    s.failedPoll = if s.waitCount + 1 = k then endedWith s .hardwareTimeout
      else { s with waitCount := s.waitCount + 1 } := by
  simp only [State.failedPoll, h]
  rfl

/-- A step that enters a wait phase has cleared the count (R105). -/
theorem waitCount_of_enters {i : Instr} {s t : State} (h : exec i s = .next t)
    (hwait : isWaitPhase t.phase = true) (hne : t.phase ≠ s.phase) : t.waitCount = 0 := by
  obtain ⟨-, rfl⟩ | ⟨-, rfl⟩ | ⟨u, ph, -, -, hframe, hcount, -⟩ | ⟨u, -, rfl, -⟩ := exec_effect h
  · obtain ⟨-, h⟩ | ⟨_, -, -, h⟩ | ⟨_, -, -, h⟩ := failedPoll_cases s <;> rw [h] at hne ⊢
    · exact absurd rfl hne
    · rfl
    · exact absurd rfl hne
  · rfl
  · have hphase : t.phase = ph := congrArg State.phase hframe
    obtain hzero | ⟨-, -, hout⟩ := hcount
    · exact hzero
    · simp [← hphase, hwait] at hout
  · rfl

/-- Settles O18: a poll passes or fails, and a failed one holds, counts or is the k-th. -/
theorem waitPhasePolls : Obligations.WaitPhasePolls := by
  refine ⟨fun i s h => exec_of_waitCond_true h, fun i s h hnone => ?_, fun i s k h hk => ?_,
    fun i s t => waitCount_of_enters⟩
  · rw [exec_failedPoll i s h, failedPoll_of_none hnone]
  · rw [exec_failedPoll i s h, failedPoll_of_some hk]

/-! ### The writes of an enable bit -/

/-- A CLK_SET step on an id that names a source writes its enable bit and enters the wait (R120,
R121). -/
theorem clkSet_of_source {src : Nat} {c : ClockSource} (hc : sourceOfId src = some c) (on : Bool)
    (s : State) :
    clkSet src on s = (s.writeBit .cr (onBit s.cfg c) on).enterWait .clkWait := by
  simp only [clkSet, hc]

/-- A write of an enable bit reaches that bit of CR and no other (R26, R31). -/
theorem getLsbD_cr_writeOn {s : State} (hl : s.cfg.Legal) (c : ClockSource) (on : Bool) (j : Nat) :
    (s.writeBit .cr (onBit s.cfg c) on).cr.getLsbD j =
      if j = onBit s.cfg c then on else s.cr.getLsbD j :=
  getLsbD_cr_writeBit s (by have := onBit_lt s.cfg hl c; omega) on j

/-- Settles O20: both commands make the one write of CLK_SET, each with its own value. -/
theorem clkSetWritesEnableBit : Obligations.ClkSetWritesEnableBit := by
  intro s src c hlegal hp hc
  rw [exec_clkEnable_clkSet src hp, exec_clkDisable_clkSet src hp, clkSet_of_source hc,
    clkSet_of_source hc]
  exact ⟨⟨_, rfl, rfl, getLsbD_cr_writeOn hlegal c true⟩,
    ⟨_, rfl, rfl, getLsbD_cr_writeOn hlegal c false⟩⟩

/-- In PLL_OFF, PLL_CONFIG clears PLLON (R151). -/
theorem exec_pllConfig_pllOff (src m n p : Nat) {s : State} (hp : s.phase = .pllOff) :
    exec (.pllConfig src m n p) s = .next (pllOff s) := by
  simp only [exec, execPllConfig, hp]

/-- In PLL_ON, PLL_CONFIG sets PLLON (R157). -/
theorem exec_pllConfig_pllOn (src m n p : Nat) {s : State} (hp : s.phase = .pllOn) :
    exec (.pllConfig src m n p) s = .next (pllTurnOn s) := by
  simp only [exec, execPllConfig, hp]

/-- Settles O29: PLLON is CR[24], and each of the two steps is one write of it. -/
theorem pllEnableBitSteps : Obligations.PllEnableBitSteps := by
  intro s src m n p
  have hon : onBit s.cfg .pll < 32 := (by decide : 24 < 32)
  refine ⟨fun hp => ?_, fun hp => ?_⟩
  · rw [exec_pllConfig_pllOff src m n p hp]
    exact ⟨_, rfl, rfl, getLsbD_cr_writeBit s hon false⟩
  · rw [exec_pllConfig_pllOn src m n p hp]
    exact ⟨_, rfl, rfl, getLsbD_cr_writeBit s hon true⟩

/-! ### The write of a gate bit -/

/-- A GATE_SET step on a position up to 31 writes the gate bit and ends OK (R170, R171). -/
theorem gateSet_of_le {pos : Nat} (h : pos ≤ 31) (bus : Bus) (on : Bool) (s : State) :
    gateSet bus pos on s = endedWith (s.writeBit (.enr bus) pos on) .ok := by
  obtain ⟨hgt, -⟩ | ⟨-, hset⟩ := gateSet_cases bus pos on s
  · omega
  · rw [hset, finish_eq_endedWith]

/-- Settles O41: both commands take the GATE_SET step, whose one write is the gate's. -/
theorem periphWritesOneGate : Obligations.PeriphWritesOneGate := by
  intro s bus pos hp
  have written (on : Bool) (hle : pos ≤ 31) : ∃ t, exec (gateCommand bus pos on) s = .next t ∧
      t = { endedWith s .ok with enr := t.enr } ∧
      ∀ b i, gate t b i = if b = bus ∧ i = pos then on else gate s b i := by
    rw [exec_gateCommand_gateSet bus pos on hp, gateSet_of_le hle]
    exact ⟨_, rfl, rfl, gate_writeBit s bus pos on hle⟩
  have rejected (on : Bool) (hgt : 31 < pos) :
      exec (gateCommand bus pos on) s = .next (endedWith s .invalidParameter) := by
    rw [exec_gateCommand_gateSet bus pos on hp, gateSet_of_gt hgt]
  exact ⟨fun hle => ⟨written true hle, written false hle⟩,
    fun hgt => ⟨rejected true hgt, rejected false hgt⟩⟩

end Sys2Proof.Machine
end

section
/-! PROOFS. Runs of one command (40_command_cycle.md R105, R106, R110, R112). With no environment
move the condition of a wait stays as it is, so a wait that is false at its first poll fails all of
them; otherwise the command walks through its phases, each later than the one before. -/

namespace Sys2Proof.Machine

/-! ### Putting runs together -/

/-- A run of one step. -/
theorem stepN_one {s t : State} (h : step s = .next t) : stepN 1 s = .next t := by
  simp only [stepN, h]

/-- Two runs, one after the other. -/
theorem stepN_trans {a b : Nat} {s u t : State} (h : stepN a s = .next u)
    (h' : stepN b u = .next t) : stepN (a + b) s = .next t :=
  (stepN_add h).trans h'

/-- The state with other moves to come. -/
def State.withMoves (s : State) (l : List Move) : State := { s with schedule := l }

@[simp] theorem withMoves_phase (s : State) (l : List Move) : (s.withMoves l).phase = s.phase := rfl

/-- The controller moves next, because its move is scheduled or none is; `rest` is left to come. -/
def ControllerMoves (l rest : List Move) : Prop := l = .controller :: rest ∨ (l = [] ∧ rest = [])

/-- A step in which the controller moves is the step of the latched command (R104; log entry 1). -/
theorem step_of_controllerMoves {s t : State} {i : Instr} {rest : List Move} (hr : Runs s i)
    (hp : s.phase ≠ .idle) (hm : ControllerMoves s.schedule rest)
    (h : exec i (s.withMoves rest) = .next t) : step s = .next t := by
  obtain ⟨w, hc, hd⟩ := hr
  rw [← h]
  obtain hsched | ⟨hsched, rfl⟩ := hm
  · simp only [step, agentStep, hsched]
    exact controllerStep_of_decode_ok hp hc hd
  · have hsame : s.withMoves [] = s := by rw [State.withMoves, ← hsched]
    rw [hsame, step_of_schedule_nil hsched, controllerStep_of_decode_ok hp hc hd]

/-- The same with no move scheduled. -/
theorem step_of_runs {s t : State} {i : Instr} (hr : Runs s i) (hp : s.phase ≠ .idle)
    (hsched : s.schedule = []) (h : exec i s = .next t) : step s = .next t := by
  obtain ⟨w, hc, hd⟩ := hr
  rw [step_of_schedule_nil hsched, controllerStep_of_decode_ok hp hc hd, h]

theorem phase_ne_idle_of_wait {i : Instr} {s : State} {b : Bool} (h : waitCond i s = some b) :
    s.phase ≠ .idle := by
  intro hp
  have hwait := isWaitPhase_of_waitCond h
  simp [hp, isWaitPhase] at hwait

/-! ### A wait whose condition is false -/

/-- With no move scheduled, a poll that finds its condition false is a failed poll (R105). -/
theorem step_of_waitCond_false {i : Instr} {s : State} (hr : Runs s i) (hsched : s.schedule = [])
    (hwait : waitCond i s = some false) : step s = .next s.failedPoll :=
  step_of_runs hr (phase_ne_idle_of_wait hwait) hsched (exec_failedPoll i s hwait)

/-- Settles O19: each step is a failed poll, which under NONE is the identity. -/
theorem unboundedWaitMayHoldForever : Obligations.UnboundedWaitMayHoldForever := by
  intro s i hsched hr hwait hnone n
  have hstep := step_of_waitCond_false hr hsched hwait
  rw [failedPoll_of_none hnone] at hstep
  induction n with
  | zero => rfl
  | succ n ih => exact stepN_snoc ih hstep

/-- With no environment move all the polls that are left fail, and the k-th ends the command
HARDWARE_TIMEOUT (R105). -/
theorem stepN_failedPolls {i : Instr} {s : State} {k : Nat} (hr : Runs s i)
    (hsched : s.schedule = []) (hwait : waitCond i s = some false)
    (hk : s.cfg.waitBound = some k) (j : Nat) (hj : s.waitCount + (j + 1) = k) :
    stepN (j + 1) s = .next (endedWith s .hardwareTimeout) := by
  induction j generalizing s with
  | zero =>
    have hstep := step_of_waitCond_false hr hsched hwait
    rw [failedPoll_of_some hk, if_pos hj] at hstep
    exact stepN_one hstep
  | succ j ih =>
    have hstep := step_of_waitCond_false hr hsched hwait
    rw [failedPoll_of_some hk, if_neg (by omega)] at hstep
    have hrest : stepN (j + 1) { s with waitCount := s.waitCount + 1 } =
        .next (endedWith s .hardwareTimeout) :=
      ih (s := { s with waitCount := s.waitCount + 1 }) hr hsched hwait hk (by simp only; omega)
    rw [Nat.add_comm]
    exact stepN_trans (stepN_one hstep) hrest

/-! ### The bound on a command's steps -/

/-- How many steps a command takes at most from a phase to its last phase, which is a wait or the
one step of a command with no wait (R112). -/
def stepsToLast : Phase → Nat
  | .decode => 9
  | .pllOff => 8
  | .pllOffWait => 7
  | .pllSrc => 6
  | .pllChkN => 5
  | .pllChkM => 4
  | .pllMn => 3
  | .pllP => 2
  | .clkSet | .sysSet | .pllOn => 1
  | _ => 0

theorem stepsToLast_nextPhase {i : Instr} {ph ph' : Phase} (h : nextPhase i ph = some ph') :
    stepsToLast ph' < stepsToLast ph := by
  cases ph with
  | decode => cases i <;> cases h <;> simp [firstPhase, stepsToLast]
  | _ => cases h <;> decide

theorem stepsToLast_le (ph : Phase) : stepsToLast ph ≤ 9 := by cases ph <;> decide

/-- A step of the running command, not a failed poll, ends it or goes on to a later phase (R104). -/
theorem controllerStep_ends_or_advances {s t : State} (hp : s.phase ≠ .idle)
    (hpoll : ∀ i, Runs s i → waitCond i s ≠ some false) (h : controllerStep s = .next t) :
    t.busy = false ∨
      (stepsToLast t.phase < stepsToLast s.phase ∧ t.cfg = s.cfg ∧ t.schedule = s.schedule) := by
  obtain ⟨hidle, -⟩ | ⟨-, i, hr, hexec⟩ | ⟨-, -, rfl⟩ := controllerStep_cases h
  · exact absurd hidle hp
  · obtain ⟨hwait, -⟩ | ⟨-, rfl⟩ | ⟨u, ph, hw, hnext, hframe, -, -⟩ | ⟨u, -, rfl, -⟩ :=
      exec_effect hexec
    · exact absurd hwait (hpoll i hr)
    · exact .inl rfl
    · rw [hframe, hw.frame]
      exact .inr ⟨stepsToLast_nextPhase hnext, rfl, rfl⟩
    · exact .inl rfl
  · exact .inl rfl

/-- With `WAIT_BOUND` = k, the running command ends within k steps of its last phase. -/
theorem ends_within {k : Nat} (r : Nat) {s : State} (hinv : StateInv s) (hbusy : s.busy = true)
    (hsched : s.schedule = []) (hk : s.cfg.waitBound = some k) (hrank : stepsToLast s.phase ≤ r) :
    ∃ n t, n ≤ k + r ∧ stepN n s = .next t ∧ t.busy = false := by
  have hpos := waitBound_pos hinv.legal hk
  have hp := hinv.busyIff.1 hbusy
  by_cases hpoll : ∀ i, Runs s i → waitCond i s ≠ some false
  · obtain ⟨t, hctl⟩ := controllerStep_next hinv
    have hstep : step s = .next t := (step_of_schedule_nil hsched).trans hctl
    obtain hidle | ⟨hlt, hcfg, hsame⟩ := controllerStep_ends_or_advances hp hpoll hctl
    · exact ⟨1, t, by omega, stepN_one hstep, hidle⟩
    · cases r with
      | zero => omega
      | succ r =>
        cases hbusy' : t.busy with
        | false => exact ⟨1, t, by omega, stepN_one hstep, hbusy'⟩
        | true =>
          obtain ⟨n, t', hn, hrun, hidle⟩ := ends_within r (step_inv hinv hstep) hbusy'
            (hsame.trans hsched) (by rw [hcfg, hk]) (by omega)
          exact ⟨1 + n, t', by omega, stepN_trans (stepN_one hstep) hrun, hidle⟩
  · simp only [not_forall, not_not] at hpoll
    obtain ⟨i, hr, hwait⟩ := hpoll
    have hlt := hinv.waitCount.bounded k hk
    exact ⟨_, _, by omega, stepN_failedPolls hr hsched hwait hk (k - s.waitCount - 1) (by omega), rfl⟩

/-- Settles O52: at most nine phases come before a command's last one. -/
theorem boundedWaitsEnd : Obligations.BoundedWaitsEnd :=
  fun s _ hinv hbusy hsched hk => ends_within 9 hinv hbusy hsched hk (stepsToLast_le s.phase)

/-! ### Commands with no wait, and commands with one -/

theorem firstPhase_clkCommand (src : Nat) (on : Bool) :
    firstPhase (clkCommand src on) = .clkSet := by
  cases on <;> rfl

theorem bypSet_ends (val : Nat) (s : State) : (bypSet val s).busy = false ∧
    ((bypSet val s).lastStatus = some .ok ∨ (bypSet val s).lastStatus = some .invalidParameter) := by
  obtain ⟨-, h⟩ | ⟨-, h⟩ := bypSet_cases val s <;> rw [h]
  · exact ⟨rfl, .inr rfl⟩
  · exact ⟨rfl, .inl rfl⟩

theorem gateSet_ends (bus : Bus) (pos : Nat) (on : Bool) (s : State) :
    (gateSet bus pos on s).busy = false ∧
      ((gateSet bus pos on s).lastStatus = some .ok ∨
        (gateSet bus pos on s).lastStatus = some .invalidParameter) := by
  obtain ⟨-, h⟩ | ⟨-, h⟩ := gateSet_cases bus pos on s <;> rw [h]
  · exact ⟨rfl, .inr rfl⟩
  · exact ⟨rfl, .inl rfl⟩

/-- The phase after DECODE ends a command that has no wait (R140, R170, R171). -/
theorem exec_ends_of_no_wait {i : Instr} {s : State} (hp : s.phase = firstPhase i)
    (h : firstPhase i = .bypSet ∨ firstPhase i = .gateSet) :
    ∃ t, exec i s = .next t ∧ t.busy = false ∧
      (t.lastStatus = some .ok ∨ t.lastStatus = some .invalidParameter) := by
  cases i with
  | hseBypass val => exact ⟨_, exec_hseBypass_bypSet val hp, bypSet_ends val s⟩
  | periphEnable bus pos =>
    exact ⟨_, exec_gateCommand_gateSet bus pos true hp, gateSet_ends bus pos true s⟩
  | periphDisable bus pos =>
    exact ⟨_, exec_gateCommand_gateSet bus pos false hp, gateSet_ends bus pos false s⟩
  | _ => simp [firstPhase] at h

/-- Settles O50: the DECODE step goes to the command's one phase, which ends it. -/
theorem commandsWithoutWaitEnd : Obligations.CommandsWithoutWaitEnd := by
  intro s w i hsched hp hc hd hfirst
  have hdecode := stepN_one (step_of_decode_ok hsched hp hc hd)
  obtain ⟨t, hexec, hend⟩ := exec_ends_of_no_wait (s := s.goto (firstPhase i)) rfl hfirst
  have hne : firstPhase i ≠ .idle := by cases i <;> simp [firstPhase]
  have hstep : step (s.goto (firstPhase i)) = .next t :=
    step_of_runs (s := s.goto (firstPhase i)) ⟨w, hc, hd⟩ hne hsched hexec
  exact ⟨t, stepN_trans hdecode (stepN_one hstep), hend⟩

/-- A clock source command whose ready bit already is the requested one (R112). -/
theorem stepN_clkCommand {s : State} {w : Word} {src : Nat} {on : Bool} {c : ClockSource}
    (hl : s.cfg.Legal) (hsched : s.schedule = []) (hp : s.phase = .decode) (hc : s.cmd = some w)
    (hd : decode w = .ok (clkCommand src on)) (hsrc : sourceOfId src = some c)
    (hready : s.isReady c = on) :
    stepN 2 s = .next ((s.writeBit .cr (onBit s.cfg c) on).enterWait .clkWait) ∧
    stepN 3 s = .next (endedWith (s.writeBit .cr (onBit s.cfg c) on) .ok) := by
  have hdecode : step s = .next (s.goto .clkSet) := by
    rw [step_of_decode_ok hsched hp hc hd, firstPhase_clkCommand]
  have hset : step (s.goto .clkSet) =
      .next ((s.writeBit .cr (onBit s.cfg c) on).enterWait .clkWait) := by
    refine step_of_runs (s := s.goto .clkSet) ⟨w, hc, hd⟩ (by simp) hsched ?_
    rw [exec_clkCommand_clkSet src on rfl, clkSet_of_source hsrc]
    rfl
  have hpoll : step ((s.writeBit .cr (onBit s.cfg c) on).enterWait .clkWait) =
      .next (endedWith (s.writeBit .cr (onBit s.cfg c) on) .ok) :=
    step_of_runs (s := (s.writeBit .cr (onBit s.cfg c) on).enterWait .clkWait) ⟨w, hc, hd⟩ (by simp)
      hsched (exec_clkCommand_of_ready rfl hsrc ((isReady_writeOn s hl c c on).trans hready))
  have hrun := stepN_trans (stepN_one hdecode) (stepN_one hset)
  exact ⟨hrun, stepN_snoc hrun hpoll⟩

/-- A SYSCLK_SELECT whose SWS already is the requested one (R112). -/
theorem stepN_sysclkSelect {s : State} {w : Word} {val : Nat} (hsched : s.schedule = [])
    (hp : s.phase = .decode) (hc : s.cmd = some w) (hd : decode w = .ok (.sysclkSelect val))
    (hval : val ≤ 3) (hsws : s.sws.toNat = val) :
    stepN 2 s = .next ((s.writeField .cfgr swLo (BitVec.ofNat 2 val)).enterWait .sysWait) ∧
    stepN 3 s = .next (endedWith (s.writeField .cfgr swLo (BitVec.ofNat 2 val)) .ok) := by
  have hdecode : step s = .next (s.goto .sysSet) := step_of_decode_ok hsched hp hc hd
  have hset : step (s.goto .sysSet) =
      .next ((s.writeField .cfgr swLo (BitVec.ofNat 2 val)).enterWait .sysWait) := by
    refine step_of_runs (s := s.goto .sysSet) ⟨w, hc, hd⟩ (by simp) hsched ?_
    rw [exec_sysclkSelect_sysSet val rfl, sysSet_of_le hval]
    rfl
  have hsws' : (s.writeField .cfgr swLo (BitVec.ofNat 2 val)).sws.toNat = val := by
    rw [sws_writeSw, hsws]
  have hpoll : step ((s.writeField .cfgr swLo (BitVec.ofNat 2 val)).enterWait .sysWait) =
      .next (endedWith (s.writeField .cfgr swLo (BitVec.ofNat 2 val)) .ok) :=
    step_of_runs (s := (s.writeField .cfgr swLo (BitVec.ofNat 2 val)).enterWait .sysWait)
      ⟨w, hc, hd⟩ (by simp) hsched (exec_sysclkSelect_of_switched rfl hsws')
  have hrun := stepN_trans (stepN_one hdecode) (stepN_one hset)
  exact ⟨hrun, stepN_snoc hrun hpoll⟩

/-- Settles O51: the three steps are DECODE, the write and the poll that passes. -/
theorem waitingCommandsTakeThreeSteps : Obligations.WaitingCommandsTakeThreeSteps := by
  intro s w hl hsched hp hc
  have clk (on : Bool) (src : Nat) (c : ClockSource) (hd : decode w = .ok (clkCommand src on))
      (hsrc : sourceOfId src = some c) (hready : s.isReady c = on) :
      (∃ u, stepN 2 s = .next u ∧ u.phase = .clkWait) ∧
      ∃ t, stepN 3 s = .next t ∧ t = { endedWith s .ok with cr := t.cr } ∧
        ∀ j, t.cr.getLsbD j = if j = onBit s.cfg c then on else s.cr.getLsbD j := by
    obtain ⟨htwo, hthree⟩ := stepN_clkCommand hl hsched hp hc hd hsrc hready
    exact ⟨⟨_, htwo, rfl⟩, _, hthree, rfl, getLsbD_cr_writeOn hl c on⟩
  refine ⟨clk true, clk false, fun val hd hval hsws => ?_⟩
  obtain ⟨htwo, hthree⟩ := stepN_sysclkSelect hsched hp hc hd hval hsws
  refine ⟨⟨_, htwo, rfl⟩, _, hthree, rfl, ?_, fun j hj => getLsbD_cfgr_writeSw s _ hj⟩
  have hsw := congrArg BitVec.toNat (sw_writeSw s (BitVec.ofNat 2 val))
  rwa [BitVec.toNat_ofNat, Nat.mod_eq_of_lt (by omega)] at hsw

/-! ### Standing in a phase -/

/-- The command stands in a phase, with no poll counted and with these moves to come. -/
def State.standing (s : State) (ph : Phase) (l : List Move) : State :=
  { s with phase := ph, waitCount := 0, schedule := l }

@[simp] theorem standing_isReady (u : State) (ph : Phase) (l : List Move) (c : ClockSource) :
    (u.standing ph l).isReady c = u.isReady c := rfl
@[simp] theorem standing_goto (u : State) (ph ph' : Phase) (l : List Move) :
    (u.standing ph l).goto ph' = u.standing ph' l := rfl
@[simp] theorem standing_enterWait (u : State) (ph ph' : Phase) (l : List Move) :
    (u.standing ph l).enterWait ph' = u.standing ph' l := rfl
@[simp] theorem standing_writeBit_cr (u : State) (ph : Phase) (l : List Move) (k : Nat) (b : Bool) :
    (u.standing ph l).writeBit .cr k b = (u.writeBit .cr k b).standing ph l := rfl
@[simp] theorem standing_writeBit_pllcfgr (u : State) (ph : Phase) (l : List Move) (k : Nat)
    (b : Bool) :
    (u.standing ph l).writeBit .pllcfgr k b = (u.writeBit .pllcfgr k b).standing ph l := rfl
@[simp] theorem standing_writeField_pllcfgr {k : Nat} (u : State) (ph : Phase) (l : List Move)
    (lo : Nat) (v : BitVec k) :
    (u.standing ph l).writeField .pllcfgr lo v = (u.writeField .pllcfgr lo v).standing ph l := rfl

/-- The controller moves while the command stands in a phase (R104). -/
theorem step_standing {u t : State} {i : Instr} {ph : Phase} {l rest : List Move}
    (hr : Runs u i) (hp : ph ≠ .idle) (hm : ControllerMoves l rest)
    (h : exec i (u.standing ph rest) = .next t) : step (u.standing ph l) = .next t :=
  step_of_controllerMoves (s := u.standing ph l) hr hp hm h

/-- The environment moves while the command stands in a phase: the ready bit becomes `b`, which the
enable bit already is (R190). -/
theorem step_standing_envReady {u : State} {c : ClockSource} {b : Bool} (ph : Phase)
    (rest : List Move) (hon : u.isOn c = b) (hready : u.isReady c = !b) :
    step (u.standing ph (.envReady c :: rest)) =
      .next ((u.writeBit .cr (rdyBit u.cfg c) b).standing ph rest) := by
  have hne : u.isReady c ≠ u.isOn c := by rw [hon, hready]; cases b <;> decide
  have hstep := step_envReady (s := u.standing ph (.envReady c :: rest)) (rest := rest) rfl hne
  exact hstep.trans (congrArg (fun b => Host.Outcome.next
    ((u.writeBit .cr (rdyBit u.cfg c) b).standing ph rest)) hon)

/-! ### Enabling and disabling a source -/

/-- The state after a clock source command and the environment's answer to it (R120, R121, R190). -/
def State.clkAnswered (s : State) (c : ClockSource) (on : Bool) : State :=
  (s.writeBit .cr (onBit s.cfg c) on).writeBit .cr (rdyBit s.cfg c) on

theorem isOn_clkAnswered {s : State} (hl : s.cfg.Legal) (c : ClockSource) (on : Bool) :
    (s.clkAnswered c on).isOn c = on :=
  (isOn_writeRdy (s.writeBit .cr (onBit s.cfg c) on) hl c c on).trans
    ((isOn_writeOn s hl c c on).trans (if_pos rfl))

theorem isReady_clkAnswered {s : State} (hl : s.cfg.Legal) (c : ClockSource) (on : Bool) :
    (s.clkAnswered c on).isReady c = on :=
  (isReady_writeRdy (s.writeBit .cr (onBit s.cfg c) on) hl c c on).trans (if_pos rfl)

theorem getLsbD_cr_clkAnswered {s : State} (hl : s.cfg.Legal) (c : ClockSource) (on : Bool)
    (j : Nat) : (s.clkAnswered c on).cr.getLsbD j =
      if j = rdyBit s.cfg c then on else if j = onBit s.cfg c then on else s.cr.getLsbD j := by
  rw [State.clkAnswered, getLsbD_cr_writeBit _ (rdyBit_lt s.cfg hl c), getLsbD_cr_writeOn hl]

/-- A clock source command that has to wait for the environment's one answer ends OK in four
steps. -/
theorem stepN_clkCommand_answered {s : State} {src : Nat} {on : Bool} {c : ClockSource}
    {rest : List Move} (hl : s.cfg.Legal) (hp : s.phase = .decode)
    (hr : Runs s (clkCommand src on)) (hsrc : sourceOfId src = some c)
    (hready : s.isReady c = !on)
    (hsched : s.schedule = .controller :: .controller :: .envReady c :: .controller :: rest) :
    stepN 4 s = .next ((endedWith (s.clkAnswered c on) .ok).withMoves rest) := by
  have hdecode : step s = .next
      ((s.withMoves (.controller :: .envReady c :: .controller :: rest)).goto .clkSet) := by
    refine step_of_controllerMoves hr (by simp [hp]) (.inl hsched) ?_
    rw [exec_decode _ ((withMoves_phase s _).trans hp), firstPhase_clkCommand]
  have hset : step ((s.withMoves (.controller :: .envReady c :: .controller :: rest)).goto .clkSet) =
      .next ((s.writeBit .cr (onBit s.cfg c) on).standing .clkWait
        (.envReady c :: .controller :: rest)) := by
    refine step_of_controllerMoves (i := clkCommand src on) hr (by simp) (.inl rfl) ?_
    rw [exec_clkCommand_clkSet src on rfl, clkSet_of_source hsrc]
    rfl
  have hanswer : step ((s.writeBit .cr (onBit s.cfg c) on).standing .clkWait
      (.envReady c :: .controller :: rest)) =
      .next ((s.clkAnswered c on).standing .clkWait (.controller :: rest)) :=
    step_standing_envReady _ _ ((isOn_writeOn s hl c c on).trans (if_pos rfl))
      ((isReady_writeOn s hl c c on).trans hready)
  have hpoll : step ((s.clkAnswered c on).standing .clkWait (.controller :: rest)) =
      .next ((endedWith (s.clkAnswered c on) .ok).withMoves rest) :=
    step_standing (i := clkCommand src on) hr (by decide) (.inl rfl)
      (exec_clkCommand_of_ready rfl hsrc (isReady_clkAnswered hl c on))
  exact stepN_trans (stepN_trans (stepN_trans (stepN_one hdecode) (stepN_one hset))
    (stepN_one hanswer)) (stepN_one hpoll)

/-- An enabling and a disabling that are both answered give CR back its bits. -/
theorem cr_clkAnswered_twice {s : State} (hl : s.cfg.Legal) {c : ClockSource}
    (hoff : s.isOn c = false) (hrdy : s.isReady c = false) :
    ((s.clkAnswered c true).clkAnswered c false).cr = s.cr := by
  apply word_ext
  intro j _
  rw [getLsbD_cr_clkAnswered (s := s.clkAnswered c true) hl, getLsbD_cr_clkAnswered hl]
  change (if j = rdyBit s.cfg c then false else if j = onBit s.cfg c then false else _) = _
  split
  · rename_i hj
    rw [hj]
    exact hrdy.symm
  · split
    · rename_i hj
      rw [hj]
      exact hoff.symm
    · rfl

/-- The host issues its word when no command runs (R100). -/
theorem step_issue {s : State} (hfree : s.busy = false) (w : Word) (rest : List Move) :
    step (s.withMoves (.issue w :: rest)) = .next ((s.withMoves rest).issueWord w) :=
  (issueLoadsLatchOnlyWhenIdle (s.withMoves (.issue w :: rest)) w rest rfl).1 hfree

/-- Settles O23: the enabling ends in four steps, the host issues the disabling, and that ends in
four more; the two bits that both write are 0 before and after. -/
theorem enableThenDisableRestoresCr : Obligations.EnableThenDisableRestoresCr := by
  intro s src c v w rest hl hsrc hoff hrdy hv hw hp hcmd _ hsched
  have henable := stepN_clkCommand_answered (on := true) hl hp ⟨v, hcmd, hv⟩ hsrc hrdy hsched
  refine ⟨⟨_, henable, rfl, isOn_clkAnswered hl c true, isReady_clkAnswered hl c true⟩, ?_⟩
  have hissue := stepN_one (step_issue (s := endedWith (s.clkAnswered c true) .ok) rfl w
    (.controller :: .controller :: .envReady c :: .controller :: rest))
  have hdisable := stepN_clkCommand_answered (s := ((endedWith (s.clkAnswered c true) .ok).withMoves
    (.controller :: .controller :: .envReady c :: .controller :: rest)).issueWord w) (on := false)
    hl rfl ⟨w, rfl, hw⟩ hsrc (isReady_clkAnswered hl c true) rfl
  have hrun := stepN_trans (stepN_trans henable hissue) hdisable
  have restored (x : Word) (hx : x = s.cr) : ({ endedWith s .ok with cr := x, schedule := rest } :
      State) = { endedWith s .ok with schedule := rest } := by
    rw [hx]
    rfl
  exact hrun.trans (congrArg _ (restored _ (cr_clkAnswered_twice hl hoff hrdy)))

end Sys2Proof.Machine
end

section
/-! PROOFS. Whole runs of PLL_CONFIG (44_pll_config.md R150, R159, R160). The states of such a run
are named by what has been written so far, each from the one before, so that a run is put together
from its steps and its bits are read off the writes. -/

namespace Sys2Proof.Machine

/-! ### What has been written -/

/-- PLLON cleared by step 1 (R151). -/
def State.pllDisabled (s : State) : State := s.writeBit .cr (onBit s.cfg .pll) false

/-- PLLON and PLLRDY after step 1 and the environment's answer to it (R151, R190). -/
def State.pllStopped (s : State) : State :=
  s.pllDisabled.writeBit .cr (rdyBit s.cfg .pll) false

/-- PLLRDY is CR[25] (R25, R26). -/
theorem isReady_pll (s : State) : s.isReady .pll = s.cr.getLsbD 25 := rfl

/-- PLLSRC written by step 2 (R152). -/
def State.pllSourced (s : State) (src : Nat) : State :=
  s.writeBit .pllcfgr pllSrcBit (decide (src = 1))

/-- PLLM and PLLN written by step 5 (R155). -/
def State.pllFactored (s : State) (m n : Nat) : State :=
  s.writeField .pllcfgr pllMLo (pllFactors n m)

/-- PLLP written by step 6 (R156). -/
def State.pllCoded (s : State) (code : BitVec 2) : State := s.writeField .pllcfgr pllPLo code

/-- PLLON set by step 7 (R157). -/
def State.pllEnabled (s : State) : State := s.writeBit .cr (onBit s.cfg .pll) true

/-- Every write of a PLL_CONFIG whose divider has the code (R150). -/
def State.pllConfigured (s : State) (src m n : Nat) (code : BitVec 2) : State :=
  ((((s.pllStopped).pllSourced src).pllFactored m n).pllCoded code).pllEnabled

/-- The PLL answers to step 7 (R190). -/
def State.pllLocked (s : State) : State := s.writeBit .cr (rdyBit s.cfg .pll) true

theorem getLsbD_cr_pllDisabled (s : State) (j : Nat) :
    s.pllDisabled.cr.getLsbD j = if j = 24 then false else s.cr.getLsbD j :=
  getLsbD_cr_writeBit s (by decide : 24 < 32) false j

theorem getLsbD_cr_pllStopped (s : State) (j : Nat) :
    s.pllStopped.cr.getLsbD j = if j = 24 ∨ j = 25 then false else s.cr.getLsbD j := by
  have hbit : s.pllStopped.cr.getLsbD j = if j = 25 then false else s.pllDisabled.cr.getLsbD j :=
    getLsbD_cr_writeBit s.pllDisabled (by decide : 25 < 32) false j
  rw [hbit, getLsbD_cr_pllDisabled]
  by_cases h24 : j = 24 <;> simp [h24]

theorem getLsbD_cr_pllEnabled (s : State) (j : Nat) :
    s.pllEnabled.cr.getLsbD j = if j = 24 then true else s.cr.getLsbD j :=
  getLsbD_cr_writeBit s (by decide : 24 < 32) true j

theorem getLsbD_cr_pllLocked (s : State) (j : Nat) :
    s.pllLocked.cr.getLsbD j = if j = 25 then true else s.cr.getLsbD j :=
  getLsbD_cr_writeBit s (by decide : 25 < 32) true j

@[simp] theorem pllSourced_cr (s : State) (src : Nat) : (s.pllSourced src).cr = s.cr := rfl
@[simp] theorem pllFactored_cr (s : State) (m n : Nat) : (s.pllFactored m n).cr = s.cr := rfl
@[simp] theorem pllCoded_cr (s : State) (code : BitVec 2) : (s.pllCoded code).cr = s.cr := rfl
@[simp] theorem pllStopped_pllcfgr (s : State) : s.pllStopped.pllcfgr = s.pllcfgr := rfl
@[simp] theorem pllEnabled_pllcfgr (s : State) : s.pllEnabled.pllcfgr = s.pllcfgr := rfl
@[simp] theorem pllLocked_pllcfgr (s : State) : s.pllLocked.pllcfgr = s.pllcfgr := rfl

/-- PLLON is set, PLLRDY is 0, and every other bit of CR is as before the command. -/
theorem getLsbD_cr_pllConfigured (s : State) (src m n : Nat) (code : BitVec 2) (j : Nat) :
    (s.pllConfigured src m n code).cr.getLsbD j =
      if j = 24 then true else if j = 25 then false else s.cr.getLsbD j := by
  rw [State.pllConfigured, getLsbD_cr_pllEnabled, pllCoded_cr, pllFactored_cr, pllSourced_cr,
    getLsbD_cr_pllStopped]
  by_cases h24 : j = 24 <;> simp [h24]

/-- PLLON and PLLRDY are set, and every other bit of CR is as before the command. -/
theorem getLsbD_cr_pllConfigured_pllLocked (s : State) (src m n : Nat) (code : BitVec 2) (j : Nat) :
    (s.pllConfigured src m n code).pllLocked.cr.getLsbD j =
      if j = 24 ∨ j = 25 then true else s.cr.getLsbD j := by
  rw [getLsbD_cr_pllLocked, getLsbD_cr_pllConfigured]
  by_cases h25 : j = 25 <;> simp [h25]

/-- PLLON is CR[24] (R25, R26). -/
theorem isOn_pll (s : State) : s.isOn .pll = s.cr.getLsbD 24 := rfl

theorem isOn_pllConfigured (s : State) (src m n : Nat) (code : BitVec 2) :
    (s.pllConfigured src m n code).isOn .pll = true := by
  rw [isOn_pll, getLsbD_cr_pllConfigured, if_pos rfl]

theorem isReady_pllConfigured (s : State) (src m n : Nat) (code : BitVec 2) :
    (s.pllConfigured src m n code).isReady .pll = false := by
  rw [isReady_pll, getLsbD_cr_pllConfigured, if_neg (by decide), if_pos rfl]

theorem isReady_pllLocked (s : State) : s.pllLocked.isReady .pll = true := by
  rw [isReady_pll, getLsbD_cr_pllLocked, if_pos rfl]

theorem isReady_pllStopped (s : State) : s.pllStopped.isReady .pll = false := by
  rw [isReady_pll, getLsbD_cr_pllStopped, if_pos (.inr rfl)]

theorem getLsbD_pllcfgr_pllSourced (s : State) (src j : Nat) :
    (s.pllSourced src).pllcfgr.getLsbD j =
      if j = 22 then decide (src = 1) else s.pllcfgr.getLsbD j :=
  getLsbD_pllcfgr_writeBit s (by decide : pllSrcBit < 32) _ j

/-- Steps 2 and 5 write PLLSRC, PLLM and PLLN (R152, R155). -/
theorem fields_pllFactored (s : State) (src : Nat) {m n : Nat} (h : FactorsLegal m n) :
    ((s.pllSourced src).pllFactored m n).pllSrc = decide (src = 1) ∧
    ((s.pllSourced src).pllFactored m n).pllM.toNat = m ∧
    ((s.pllSourced src).pllFactored m n).pllN.toNat = n := by
  obtain ⟨-, hn, -, hm⟩ := h
  refine ⟨?_, ?_, ?_⟩
  · rw [State.pllFactored, pllSrc_writeFactors, State.pllSourced, pllSrc_writeSrc]
  · rw [State.pllFactored, pllM_writeFactors, BitVec.toNat_ofNat, Nat.mod_eq_of_lt (by omega)]
  · rw [State.pllFactored, pllN_writeFactors, BitVec.toNat_ofNat, Nat.mod_eq_of_lt (by omega)]

theorem getLsbD_pllcfgr_pllFactored (s : State) (src m n : Nat) {j : Nat} (h15 : 15 ≤ j)
    (h22 : j ≠ 22) :
    ((s.pllSourced src).pllFactored m n).pllcfgr.getLsbD j = s.pllcfgr.getLsbD j := by
  rw [State.pllFactored, getLsbD_pllcfgr_writeField_apart _ _ _ (.inr h15),
    getLsbD_pllcfgr_pllSourced, if_neg h22]

/-- Steps 2, 5 and 6 write all four fields of PLLCFGR (R152, R155, R156). -/
theorem fields_pllConfigured (s : State) (src : Nat) {m n : Nat} (h : FactorsLegal m n)
    (code : BitVec 2) :
    (s.pllConfigured src m n code).pllSrc = decide (src = 1) ∧
    (s.pllConfigured src m n code).pllM.toNat = m ∧
    (s.pllConfigured src m n code).pllN.toNat = n ∧
    (s.pllConfigured src m n code).pllP = code := by
  obtain ⟨hsrc, hm, hn⟩ := fields_pllFactored s.pllStopped src h
  rw [State.pllConfigured, State.pllEnabled, State.pllCoded]
  refine ⟨?_, ?_, ?_, ?_⟩
  · rw [pllSrc_writeBit_cr, pllSrc_writeCode, hsrc]
  · rw [pllM_writeBit_cr, pllM_writeCode, hm]
  · rw [pllN_writeBit_cr, pllN_writeCode, hn]
  · rw [pllP_writeBit_cr, pllP_writeCode]

theorem getLsbD_pllcfgr_pllConfigured (s : State) (src m n : Nat) (code : BitVec 2) {j : Nat}
    (h15 : 15 ≤ j) (h16 : j ≠ 16) (h17 : j ≠ 17) (h22 : j ≠ 22) :
    (s.pllConfigured src m n code).pllcfgr.getLsbD j = s.pllcfgr.getLsbD j := by
  rw [State.pllConfigured, pllEnabled_pllcfgr, State.pllCoded,
    getLsbD_pllcfgr_writeField_apart _ _ _ (by simp only [pllPLo]; omega),
    getLsbD_pllcfgr_pllFactored _ _ _ _ h15 h22, pllStopped_pllcfgr]

/-! ### The end of a run -/

/-- `u` differs from `s` in CR and PLLCFGR at most. -/
def WritesPll (s u : State) : Prop := u = { s with cr := u.cr, pllcfgr := u.pllcfgr }

theorem WritesPll.trans {s u v : State} (h : WritesPll s u) (h' : WritesPll u v) :
    WritesPll s v := by
  rw [WritesPll] at h h' ⊢
  rw [h', h]

theorem writesPll_writeBit_cr (s : State) (k : Nat) (b : Bool) :
    WritesPll s (s.writeBit .cr k b) := rfl

theorem writesPll_writeBit_pllcfgr (s : State) (k : Nat) (b : Bool) :
    WritesPll s (s.writeBit .pllcfgr k b) := rfl

theorem writesPll_writeField_pllcfgr {k : Nat} (s : State) (lo : Nat) (v : BitVec k) :
    WritesPll s (s.writeField .pllcfgr lo v) := rfl

theorem writesPll_pllStopped (s : State) : WritesPll s s.pllStopped := by
  rw [State.pllStopped, State.pllDisabled]
  exact (writesPll_writeBit_cr s _ _).trans (writesPll_writeBit_cr _ _ _)

theorem writesPll_pllSourced (s : State) (src : Nat) :
    WritesPll s (s.pllStopped.pllSourced src) := by
  rw [State.pllSourced]
  exact (writesPll_pllStopped s).trans (writesPll_writeBit_pllcfgr _ _ _)

theorem writesPll_pllFactored (s : State) (src m n : Nat) :
    WritesPll s ((s.pllStopped.pllSourced src).pllFactored m n) := by
  rw [State.pllFactored]
  exact (writesPll_pllSourced s src).trans (writesPll_writeField_pllcfgr _ _ _)

theorem writesPll_pllConfigured (s : State) (src m n : Nat) (code : BitVec 2) :
    WritesPll s (s.pllConfigured src m n code) := by
  rw [State.pllConfigured, State.pllEnabled, State.pllCoded]
  exact ((writesPll_pllFactored s src m n).trans (writesPll_writeField_pllcfgr _ _ _)).trans
    (writesPll_writeBit_cr _ _ _)

/-- In `t` the command of `s` has ended with status `x`, with CR and PLLCFGR as in `u`. -/
structure EndsAs (s u t : State) (x : Status) (rest : List Move) : Prop where
  frame : t = { endedWith s x with cr := t.cr, pllcfgr := t.pllcfgr, schedule := rest }
  cr : t.cr = u.cr
  pllcfgr : t.pllcfgr = u.pllcfgr

theorem exists_endsAs {k : Nat} {s u : State} {x : Status} {rest : List Move}
    (hrun : stepN k s = .next ((endedWith u x).withMoves rest)) (hu : WritesPll s u) :
    ∃ t, stepN k s = .next t ∧ EndsAs s u t x rest := by
  refine ⟨_, hrun, ?_, rfl, rfl⟩
  rw [hu]
  rfl

/-- Where PLLCFGR has not been written it is that of the start. -/
theorem EndsAs.frame_cr {s u t : State} {x : Status} {rest : List Move} (h : EndsAs s u t x rest)
    (hsame : u.pllcfgr = s.pllcfgr) : t = { endedWith s x with cr := t.cr, schedule := rest } := by
  refine h.frame.trans ?_
  rw [h.pllcfgr, hsame]
  rfl

/-- The fields of PLLCFGR are read from PLLCFGR alone. -/
theorem fields_congr {u t : State} (h : t.pllcfgr = u.pllcfgr) :
    t.pllSrc = u.pllSrc ∧ t.pllM = u.pllM ∧ t.pllN = u.pllN ∧ t.pllP = u.pllP := by
  simp only [State.pllSrc, State.pllM, State.pllN, State.pllP, h, and_self]

/-! ### The steps -/

/-- The controller makes the next `n` moves, which leave `rest` to come. -/
def ControllerTakes : Nat → List Move → List Move → Prop
  | 0, l, rest => l = rest
  | n + 1, l, rest => ∃ l', ControllerMoves l l' ∧ ControllerTakes n l' rest

theorem controllerTakes_replicate (n : Nat) (rest : List Move) :
    ControllerTakes n (List.replicate n .controller ++ rest) rest := by
  induction n with
  | zero => rfl
  | succ n ih => exact ⟨_, .inl rfl, ih⟩

theorem controllerTakes_nil (n : Nat) : ControllerTakes n [] [] := by
  induction n with
  | zero => rfl
  | succ n ih => exact ⟨[], .inr ⟨rfl, rfl⟩, ih⟩

/-- Two runs whose numbers of steps add up. -/
theorem stepN_append {a b n : Nat} {s u t : State} (h : stepN a s = .next u)
    (h' : stepN b u = .next t) (hn : a + b = n) : stepN n s = .next t :=
  hn ▸ stepN_trans h h'

section
variable {s u : State} {src m n p : Nat} {l rest : List Move}

/-- DECODE and PLL_OFF (R102, R151). -/
theorem stepN_pllDisabled (hp : s.phase = .decode) (hr : Runs s (.pllConfig src m n p))
    (hm : ControllerTakes 2 s.schedule rest) :
    stepN 2 s = .next (s.pllDisabled.standing .pllOffWait rest) := by
  obtain ⟨l, hm1, l', hm2, rfl⟩ := hm
  have hdecode : step s = .next ((s.withMoves l).goto .pllOff) :=
    step_of_controllerMoves hr (by simp [hp]) hm1
      (exec_decode (s := s.withMoves l) (.pllConfig src m n p) hp)
  have hoff : step ((s.withMoves l).goto .pllOff) =
      .next (s.pllDisabled.standing .pllOffWait l') :=
    step_of_controllerMoves (s := (s.withMoves l).goto .pllOff) hr (by simp) hm2
      (exec_pllConfig_pllOff src m n p rfl)
  exact stepN_trans (stepN_one hdecode) (stepN_one hoff)

/-- The environment's answer to step 1, where there is something to answer (R190). -/
theorem stepN_pllUnlocks (hl : s.cfg.Legal) :
    stepN (pllUnlocks s).length (s.pllDisabled.standing .pllOffWait (pllUnlocks s ++ rest)) =
      .next (s.pllStopped.standing .pllOffWait rest) := by
  have hready : s.pllDisabled.isReady .pll = s.isReady .pll := isReady_writeOn s hl .pll .pll false
  cases hlocked : s.isReady .pll with
  | true =>
    rw [pllUnlocks, hlocked, if_pos rfl]
    exact stepN_one (step_standing_envReady _ _
      ((isOn_writeOn s hl .pll .pll false).trans (if_pos rfl)) (hready.trans hlocked))
  | false =>
    have hcr : s.pllDisabled.cr = s.pllStopped.cr := by
      apply word_ext
      intro j _
      rw [getLsbD_cr_pllDisabled, getLsbD_cr_pllStopped]
      by_cases h25 : j = 25
      · rw [h25, if_neg (by decide), if_pos (by decide), ← isReady_pll, hlocked]
      · simp [h25]
    have hsame : s.pllDisabled = s.pllStopped := by
      change ({ s with cr := s.pllDisabled.cr } : State) = { s with cr := s.pllStopped.cr }
      rw [hcr]
    rw [pllUnlocks, hlocked, hsame]
    rfl

/-- The poll of PLL_OFF_WAIT that finds PLLRDY = 0 (R151). -/
theorem step_pllUnlocked (hr : Runs u (.pllConfig src m n p)) (hunlocked : u.isReady .pll = false)
    (hm : ControllerMoves l rest) :
    step (u.standing .pllOffWait l) = .next (u.standing .pllSrc rest) :=
  step_standing hr (by decide) hm (exec_pllConfig_of_unlocked src m n p rfl hunlocked)

/-- From DECODE to PLL_SRC, with the PLL stopped (R150, R151). -/
theorem stepN_pllStopped (hl : s.cfg.Legal) (hp : s.phase = .decode)
    (hr : Runs s (.pllConfig src m n p)) (hm : ControllerTakes 2 s.schedule (pllUnlocks s ++ l))
    (hm' : ControllerMoves l rest) :
    stepN (3 + (pllUnlocks s).length) s = .next (s.pllStopped.standing .pllSrc rest) :=
  stepN_append (stepN_trans (stepN_pllDisabled hp hr hm) (stepN_pllUnlocks hl))
    (stepN_one (step_pllUnlocked (runs_of_cmd hr rfl) (isReady_pllStopped s) hm')) (by omega)

/-- Step 2 on a legal source (R152). -/
theorem stepN_pllSourced (hr : Runs u (.pllConfig src m n p)) (hsrc : src ≤ 1)
    (hm : ControllerMoves l rest) :
    stepN 1 (u.standing .pllSrc l) = .next ((u.pllSourced src).standing .pllChkN rest) := by
  refine stepN_one (step_standing hr (by decide) hm ?_)
  rw [exec_pllConfig_pllSrc src m n p rfl, pllSource_of_le hsrc, standing_writeBit_pllcfgr,
    standing_goto, State.pllSourced]

/-- Step 3 on a legal N (R153). -/
theorem stepN_pllCheckedN (hr : Runs u (.pllConfig src m n p)) (hn : 50 ≤ n ∧ n ≤ 432)
    (hm : ControllerMoves l rest) :
    stepN 1 (u.standing .pllChkN l) = .next (u.standing .pllChkM rest) := by
  refine stepN_one (step_standing hr (by decide) hm ?_)
  rw [exec_pllConfig_pllChkN src m n p rfl, pllCheckN_eq, if_pos hn]
  rfl

/-- Steps 4 and 5 on a legal M (R154, R155). -/
theorem stepN_pllFactored (hr : Runs u (.pllConfig src m n p)) (hM : 2 ≤ m ∧ m ≤ 63)
    (hm : ControllerTakes 2 l rest) :
    stepN 2 (u.standing .pllChkM l) = .next ((u.pllFactored m n).standing .pllP rest) := by
  obtain ⟨l', hm1, l'', hm2, rfl⟩ := hm
  have hcheck : step (u.standing .pllChkM l) = .next (u.standing .pllMn l') := by
    refine step_standing hr (by decide) hm1 ?_
    rw [exec_pllConfig_pllChkM src m n p rfl, pllCheckM_eq, if_pos hM]
    rfl
  have hwrite : step (u.standing .pllMn l') = .next ((u.pllFactored m n).standing .pllP l'') := by
    refine step_standing hr (by decide) hm2 ?_
    rw [exec_pllConfig_pllMn src m n p rfl, pllWriteFactors, standing_writeField_pllcfgr,
      standing_goto, State.pllFactored]
  exact stepN_trans (stepN_one hcheck) (stepN_one hwrite)

/-- PLL_ON (R157). -/
theorem step_pllEnabled (hr : Runs u (.pllConfig src m n p)) (hm : ControllerMoves l rest) :
    step (u.standing .pllOn l) = .next (u.pllEnabled.standing .pllOnWait rest) := by
  refine step_standing hr (by decide) hm ?_
  rw [exec_pllConfig_pllOn src m n p rfl, pllTurnOn, standing_writeBit_cr, standing_enterWait,
    State.pllEnabled]
  rfl

/-- Step 6 on a divider with a code, and PLL_ON (R156, R157). -/
theorem stepN_pllEnabled (hr : Runs u (.pllConfig src m n p)) {code : BitVec 2}
    (hcode : pcode (dividerOf u.cfg.pSource m p) = some code) (hm : ControllerTakes 2 l rest) :
    stepN 2 (u.standing .pllP l) =
      .next ((u.pllCoded code).pllEnabled.standing .pllOnWait rest) := by
  obtain ⟨l', hm1, l'', hm2, rfl⟩ := hm
  have hwrite : step (u.standing .pllP l) = .next ((u.pllCoded code).standing .pllOn l') := by
    refine step_standing hr (by decide) hm1 ?_
    rw [exec_pllConfig_pllP src m n p rfl,
      pllWriteCode_of_code (s := u.standing .pllP l') hcode, standing_writeField_pllcfgr,
      standing_goto, State.pllCoded]
  have hon : step ((u.pllCoded code).standing .pllOn l') =
      .next ((u.pllCoded code).pllEnabled.standing .pllOnWait l'') :=
    step_pllEnabled (runs_of_cmd hr rfl) hm2
  exact stepN_trans (stepN_one hwrite) (stepN_one hon)

/-- Steps 2 to 5 on legal operands (R150). -/
theorem stepN_pllFactors (hr : Runs u (.pllConfig src m n p)) (hsrc : src ≤ 1)
    (hf : FactorsLegal m n) (hm : ControllerTakes 4 l rest) :
    stepN 4 (u.standing .pllSrc l) =
      .next (((u.pllSourced src).pllFactored m n).standing .pllP rest) := by
  obtain ⟨l1, hm1, l2, hm2, hm3⟩ := hm
  have hr' : Runs (u.pllSourced src) (.pllConfig src m n p) := runs_of_cmd hr rfl
  exact stepN_trans (stepN_trans (stepN_pllSourced hr hsrc hm1)
    (stepN_pllCheckedN hr' ⟨hf.nLow, hf.nHigh⟩ hm2)) (stepN_pllFactored hr' ⟨hf.mLow, hf.mHigh⟩ hm3)

/-- Steps 2 to 7 on legal operands, up to the wait for PLLRDY (R150). -/
theorem stepN_pllConfigured (hr : Runs s (.pllConfig src m n p)) (hsrc : src ≤ 1)
    (hf : FactorsLegal m n) {code : BitVec 2}
    (hcode : pcode (dividerOf s.cfg.pSource m p) = some code) (hm : ControllerTakes 6 l rest) :
    stepN 6 (s.pllStopped.standing .pllSrc l) =
      .next ((s.pllConfigured src m n code).standing .pllOnWait rest) := by
  obtain ⟨l1, hm1, l2, hm2, l3, hm3, l4, hm4, hm5⟩ := hm
  rw [State.pllConfigured]
  exact stepN_trans
    (stepN_pllFactors (u := s.pllStopped) (runs_of_cmd hr rfl) hsrc hf
      ⟨l1, hm1, l2, hm2, l3, hm3, l4, hm4, rfl⟩)
    (stepN_pllEnabled (u := (s.pllStopped.pllSourced src).pllFactored m n) (runs_of_cmd hr rfl)
      hcode hm5)

/-- The environment's answer to step 7, and the poll that finds PLLRDY = 1 (R157, R190). -/
theorem stepN_pllLocked (hr : Runs u (.pllConfig src m n p)) (hon : u.isOn .pll = true)
    (hready : u.isReady .pll = false) :
    stepN 2 (u.standing .pllOnWait (.envReady .pll :: .controller :: rest)) =
      .next ((endedWith u.pllLocked .ok).withMoves rest) := by
  have hanswer : step (u.standing .pllOnWait (.envReady .pll :: .controller :: rest)) =
      .next (u.pllLocked.standing .pllOnWait (.controller :: rest)) :=
    step_standing_envReady _ _ hon hready
  have hpoll : step (u.pllLocked.standing .pllOnWait (.controller :: rest)) =
      .next ((endedWith u.pllLocked .ok).withMoves rest) :=
    step_standing (runs_of_cmd hr rfl) (by decide) (.inl rfl)
      (exec_pllConfig_of_locked src m n p rfl (by rw [standing_isReady, isReady_pllLocked]))
  exact stepN_trans (stepN_one hanswer) (stepN_one hpoll)

/-- A check of PLL_CONFIG that fails, with no move scheduled (R181). -/
theorem stepN_pllRejected {ph : Phase} (hr : Runs u (.pllConfig src m n p)) (hp : ph ≠ .idle)
    (hcheck : FailsCheck (.pllConfig src m n p) (u.standing ph [])) :
    stepN 1 (u.standing ph []) = .next ((endedWith u .invalidParameter).withMoves []) :=
  stepN_one (step_standing hr hp (.inr ⟨rfl, rfl⟩) (exec_of_failsCheck hcheck))

end

/-! ### The whole command -/

/-- The divider that the statements write out is the one the step looks up (R156). -/
theorem exists_code {s : State} {m p d : Nat} (hd : d = if s.cfg.pSource = .fromM then m else p)
    (hmem : d ∈ [2, 4, 6, 8]) :
    ∃ code, pcode (dividerOf s.cfg.pSource m p) = some code ∧ code.toNat = d / 2 - 1 := by
  rw [dividerOf_eq, ← hd]
  exact exists_pcode hmem

/-- What stands in PLLCFGR after all the writes on legal operands (R160). -/
theorem configured_of_pllcfgr {s t : State} {src m n d : Nat} {code : BitVec 2}
    (h : t.pllcfgr = (s.pllConfigured src m n code).pllcfgr) (hf : FactorsLegal m n)
    (hvalue : code.toNat = d / 2 - 1) :
    (t.pllSrc = decide (src = 1) ∧ t.pllM.toNat = m ∧ t.pllN.toNat = n ∧
      t.pllP.toNat = d / 2 - 1) ∧
    ∀ j, 15 ≤ j → j ≠ 16 → j ≠ 17 → j ≠ 22 → t.pllcfgr.getLsbD j = s.pllcfgr.getLsbD j := by
  obtain ⟨esrc, em, en, ep⟩ := fields_congr h
  obtain ⟨fsrc, fm, fn, fcode⟩ := fields_pllConfigured s src hf code
  refine ⟨⟨?_, ?_, ?_, ?_⟩, fun j h15 h16 h17 h22 => ?_⟩
  · rw [esrc, fsrc]
  · rw [em, fm]
  · rw [en, fn]
  · rw [ep, fcode, hvalue]
  · rw [h, getLsbD_pllcfgr_pllConfigured s src m n code h15 h16 h17 h22]

/-- Settles O35: the run is step 1 with its answer, the six steps that pass their checks and write
the fields, the answer to step 7 and the last poll. -/
theorem pllConfigSucceeds : Obligations.PllConfigSucceeds := by
  intro s w src m n p d rest hl hp hc hdec hsched hsrc hf hd hmem
  obtain ⟨code, hcode, hvalue⟩ := exists_code hd hmem
  have hr : Runs s (.pllConfig src m n p) := ⟨w, hc, hdec⟩
  have hm : ControllerTakes 2 s.schedule (pllUnlocks s ++ (.controller ::
      (List.replicate 6 .controller ++ .envReady .pll :: .controller :: rest))) := by
    rw [hsched]
    simp only [List.append_assoc]
    exact controllerTakes_replicate 2 _
  have hrun := stepN_append (stepN_append (stepN_pllStopped hl hp hr hm (.inl rfl))
    (stepN_pllConfigured hr hsrc hf hcode (controllerTakes_replicate 6 _)) rfl)
    (stepN_pllLocked (runs_of_cmd hr rfl) (isOn_pllConfigured s src m n code)
      (isReady_pllConfigured s src m n code))
    (by omega : 3 + (pllUnlocks s).length + 6 + 2 = 11 + (pllUnlocks s).length)
  obtain ⟨t, hrun, hends⟩ := exists_endsAs hrun
    ((writesPll_pllConfigured s src m n code).trans (writesPll_writeBit_cr _ _ _))
  refine ⟨t, hrun, hends.frame, fun j => ?_,
    configured_of_pllcfgr (hends.pllcfgr.trans (pllLocked_pllcfgr _)) hf hvalue⟩
  rw [hends.cr, getLsbD_cr_pllConfigured_pllLocked]

/-- Where the schedule answers step 1 and no more, the controller makes every other move. -/
theorem controllerTakes_of_answered {s : State} (hsched : s.schedule =
    if s.isReady .pll then [.controller, .controller, .envReady .pll] else []) :
    ControllerTakes 2 s.schedule (pllUnlocks s ++ []) := by
  rw [hsched, pllUnlocks]
  cases s.isReady .pll with
  | true => exact controllerTakes_replicate 2 [.envReady .pll]
  | false => exact controllerTakes_nil 2

/-- Settles O36: up to the check that fails the run is that of the legal operands, and the check
ends the command with what has been written by then. -/
theorem pllConfigLeftovers : Obligations.PllConfigLeftovers := by
  intro s w src m n p hl hp hc hdec hsched
  have hr : Runs s (.pllConfig src m n p) := ⟨w, hc, hdec⟩
  have hnil : ControllerMoves [] [] := .inr ⟨rfl, rfl⟩
  have hstop := stepN_pllStopped hl hp hr (controllerTakes_of_answered hsched) hnil
  have hr0 : Runs s.pllStopped (.pllConfig src m n p) := runs_of_cmd hr rfl
  have hr1 : Runs (s.pllStopped.pllSourced src) (.pllConfig src m n p) := runs_of_cmd hr rfl
  have stopped (u t : State) (hends : EndsAs s u t .invalidParameter [])
      (hcr : u.cr = s.pllStopped.cr) (j : Nat) :
      t.cr.getLsbD j = if j = 24 ∨ j = 25 then false else s.cr.getLsbD j := by
    rw [hends.cr, hcr, getLsbD_cr_pllStopped]
  have sourced (t : State)
      (hends : EndsAs s (s.pllStopped.pllSourced src) t .invalidParameter []) (j : Nat) :
      t.pllcfgr.getLsbD j = if j = 22 then decide (src = 1) else s.pllcfgr.getLsbD j := by
    rw [hends.pllcfgr, getLsbD_pllcfgr_pllSourced, pllStopped_pllcfgr]
  refine ⟨fun hsrc => ?_, fun hsrc hn => ?_, fun hsrc hn hn' hM => ?_, fun hsrc hf hd => ?_⟩
  · have hrun := stepN_append hstop (stepN_pllRejected hr0 (by decide)
      (failsCheck_pllConfig.2 (.inl ⟨rfl, hsrc⟩)))
      (by omega : 3 + (pllUnlocks s).length + 1 = 4 + (pllUnlocks s).length)
    obtain ⟨t, hrun, hends⟩ := exists_endsAs hrun (writesPll_pllStopped s)
    exact ⟨t, hrun, hends.frame_cr (pllStopped_pllcfgr s), stopped _ t hends rfl⟩
  · have hrun := stepN_append (stepN_append hstop (stepN_pllSourced hr0 hsrc hnil) rfl)
      (stepN_pllRejected hr1 (by decide) (failsCheck_pllConfig.2 (.inr (.inl ⟨rfl, hn⟩))))
      (by omega : 3 + (pllUnlocks s).length + 1 + 1 = 5 + (pllUnlocks s).length)
    obtain ⟨t, hrun, hends⟩ := exists_endsAs hrun (writesPll_pllSourced s src)
    exact ⟨t, hrun, hends.frame, stopped _ t hends (pllSourced_cr _ src), sourced t hends⟩
  · have hrun := stepN_append (stepN_append (stepN_append hstop
      (stepN_pllSourced hr0 hsrc hnil) rfl) (stepN_pllCheckedN hr1 ⟨hn, hn'⟩ hnil) rfl)
      (stepN_pllRejected hr1 (by decide) (failsCheck_pllConfig.2 (.inr (.inr (.inl ⟨rfl, hM⟩)))))
      (by omega : 3 + (pllUnlocks s).length + 1 + 1 + 1 = 6 + (pllUnlocks s).length)
    obtain ⟨t, hrun, hends⟩ := exists_endsAs hrun (writesPll_pllSourced s src)
    exact ⟨t, hrun, hends.frame, stopped _ t hends (pllSourced_cr _ src), sourced t hends⟩
  · rw [← dividerOf_eq] at hd
    have hrun := stepN_append (stepN_append hstop
      (stepN_pllFactors hr0 hsrc hf (controllerTakes_nil 4)) rfl)
      (stepN_pllRejected (runs_of_cmd hr0 rfl) (by decide)
        (failsCheck_pllConfig.2 (.inr (.inr (.inr ⟨rfl, (pcode_none _).2 hd⟩)))))
      (by omega : 3 + (pllUnlocks s).length + 4 + 1 = 8 + (pllUnlocks s).length)
    obtain ⟨t, hrun, hends⟩ := exists_endsAs hrun (writesPll_pllFactored s src m n)
    obtain ⟨esrc, em, en, -⟩ := fields_congr hends.pllcfgr
    obtain ⟨fsrc, fm, fn⟩ := fields_pllFactored s.pllStopped src hf
    refine ⟨t, hrun, hends.frame, stopped _ t hends ?_, ⟨?_, ?_, ?_⟩, fun j h15 h22 => ?_⟩
    · rw [pllFactored_cr, pllSourced_cr]
    · rw [esrc, fsrc]
    · rw [em, fm]
    · rw [en, fn]
    · rw [hends.pllcfgr, getLsbD_pllcfgr_pllFactored _ _ _ _ h15 h22, pllStopped_pllcfgr]

/-- A wait of PLL_CONFIG that starts with its condition false, and with no move scheduled, fails all
its polls (R105, R159). -/
theorem stepN_pllTimesOut {u : State} {src m n p k : Nat} {ph : Phase} (hl : u.cfg.Legal)
    (hr : Runs u (.pllConfig src m n p)) (hk : u.cfg.waitBound = some k)
    (hwait : waitCond (.pllConfig src m n p) (u.standing ph []) = some false) :
    stepN k (u.standing ph []) = .next ((endedWith u .hardwareTimeout).withMoves []) := by
  obtain ⟨j, rfl⟩ := Nat.exists_eq_add_one_of_ne_zero (waitBound_pos hl hk).ne'
  exact stepN_failedPolls (s := u.standing ph []) hr rfl hwait hk j (Nat.zero_add _)

/-- Settles O37: each wait starts with its condition false, the first because the PLL is locked and
nobody answers, the second because it is not. -/
theorem pllTimeoutLeftovers : Obligations.PllTimeoutLeftovers := by
  intro s w src m n p d k hl hp hc hdec hsched hk
  have hr : Runs s (.pllConfig src m n p) := ⟨w, hc, hdec⟩
  have hm : ControllerTakes 2 s.schedule [] := hsched ▸ controllerTakes_nil 2
  refine ⟨fun hlocked => ?_, fun hunlocked hsrc hf hd hmem => ?_⟩
  · have hready : s.pllDisabled.isReady .pll = true :=
      (isReady_writeOn s hl .pll .pll false).trans hlocked
    have hwait : waitCond (.pllConfig src m n p) (s.pllDisabled.standing .pllOffWait []) =
        some false := by
      rw [waitCond_pllOffWait src m n p rfl, standing_isReady, hready]
      rfl
    have hrun := stepN_trans (stepN_pllDisabled hp hr hm)
      (stepN_pllTimesOut (u := s.pllDisabled) hl (runs_of_cmd hr rfl) hk hwait)
    obtain ⟨t, hrun, hends⟩ := exists_endsAs hrun (writesPll_writeBit_cr s _ _)
    have hframe := hends.frame_cr rfl
    rw [← hsched] at hframe
    exact ⟨t, hrun, hframe, fun j => by rw [hends.cr, getLsbD_cr_pllDisabled]⟩
  · obtain ⟨code, hcode, hvalue⟩ := exists_code hd hmem
    have hnone : pllUnlocks s = [] := by rw [pllUnlocks, hunlocked]; rfl
    have hstop := stepN_pllStopped (l := []) hl hp hr (by rw [hnone]; exact hm) (.inr ⟨rfl, rfl⟩)
    rw [hnone] at hstop
    have hwait : waitCond (.pllConfig src m n p)
        ((s.pllConfigured src m n code).standing .pllOnWait []) = some false := by
      rw [waitCond_pllOnWait src m n p rfl, standing_isReady, isReady_pllConfigured]
    have hrun := stepN_trans (stepN_trans hstop
      (stepN_pllConfigured hr hsrc hf hcode (controllerTakes_nil 6)))
      (stepN_pllTimesOut (u := s.pllConfigured src m n code) hl (runs_of_cmd hr rfl) hk hwait)
    obtain ⟨t, hrun, hends⟩ := exists_endsAs hrun (writesPll_pllConfigured s src m n code)
    have hframe := hends.frame
    rw [← hsched] at hframe
    refine ⟨t, hrun, hframe, fun j => ?_, configured_of_pllcfgr hends.pllcfgr hf hvalue⟩
    rw [hends.cr, getLsbD_cr_pllConfigured]
    by_cases h25 : j = 25
    · rw [h25, if_neg (by decide), if_pos rfl, if_neg (by decide), ← isReady_pll, hunlocked]
    · rw [if_neg h25]

end Sys2Proof.Machine
end
